-- ==== Sys2Proof/Word.lean ====
section
/-! DEFINITION. The two bit-vector types of the block: the 32-bit word of the host bus (R40, R43) and the
byte lane (R47). Register values are not bit vectors here: their width is the parameter W or KW, and the spec
reads a register "as a non-negative integer of its width" (R10), so they are natural numbers with a bound kept
as an invariant (`Sys2Proof.Machine.State.Inv`, R38). -/

namespace Sys2Proof

/-- A 32-bit host-bus word (R40 `wdata[31:0]`, `rdata[31:0]`), which is also a command word (R59). -/
abbrev Word := BitVec 32

/-- A byte lane of a bus word (R47). -/
abbrev Byte := BitVec 8

end Sys2Proof
end

