-- ==== Sys2Proof/Config.lean ====
section
/-! DEFINITION. The implementation parameters of R6, which the model takes as data. -/

namespace Sys2Proof

/-- The OPEN parameters of R6. A machine carries its own in `State.params`, where no step changes them (R17),
so every statement over all states is a statement over all builds of the block (log entries 1 and 2).
`NW` and `NK` are derived from them (`Machine.Params.words`). RST_POLARITY (D34) is not modelled
(log entry 15). -/
structure Params where
  /-- `W`, the width in bits of every field-element register; 2 to 2048. -/
  w : Nat
  /-- `KW`, the width in bits of the scalar register K; 2 to 2048. -/
  kw : Nat
  /-- `BASE`, the bus address of the 8 KiB register window; a multiple of 0x2000. -/
  base : Nat
  deriving DecidableEq, Repr

/-- The build of the spec's own vectors (R6, last column: W = KW = 16, BASE = 0).
DESIGN CHOICE (log entry 2): the build that `State.reset` shows. -/
def Params.ofVectors : Params := ⟨16, 16, 0⟩

end Sys2Proof
end

