-- ==== Sys2Proof/Syntax.lean ====
section
/-! DEFINITION. The commands of the block: one constructor per row of spec/opcode_table.json. -/

namespace Sys2Proof

/-- The five commands (R2, R60). A command has no operand field and no immediate: every operand is an implicit
register (R59, R63). -/
inductive Instr where
  /-- MODINV, `mod_inverse(p, value)` (R72). -/
  | modinv
  /-- CURVE_LOAD, `Curve::new(a, b, P, N, G)` (R80). -/
  | curveLoad
  /-- PDBL, `Curve::double(point)` (R85). -/
  | pdbl
  /-- PADD, `Curve::add(p1, p2)` (R90). -/
  | padd
  /-- PMUL, `Curve::scalar_mul(point, k)` (R95). -/
  | pmul
  deriving DecidableEq, Repr

end Sys2Proof
end

