-- ==== Sys2Proof/Machine/HostTypes.lean ====
section
/-! DEFINITION. The types of the host side: register names, bus transactions and their responses, the
host-script statements of R69, and the turns that say which agent moves next (R15). -/

namespace Sys2Proof.Machine

/-- The thirteen RW registers whose words the host writes and that a command reads (R16: A_X to CFG_GY). -/
inductive OpReg where
  | aX | aY | bX | bY | k | invP | invV | cfgA | cfgB | cfgP | cfgN | cfgGx | cfgGy
  deriving DecidableEq, Repr

/-- The twenty-seven named registers of R16. Indices 0x1B to 0x1F are reserved and have no name. -/
inductive Reg where
  | params | cmd | status | opflags
  /-- A_X, A_Y, B_X, B_Y, K, INV_P, INV_V and CFG_A to CFG_GY. -/
  | operand (r : OpReg)
  | curA | curB | curP | curN | curGx | curGy
  | rX | rY | rflags | rInv
  deriving DecidableEq, Repr

/-- One host request (R40, R41). The address is the bus address, before BASE is taken off. The size is in
bytes: the block has only 4 (R43), and the model refuses every other size. -/
inductive BusRequest where
  | read (addr size : Nat)
  | write (addr size : Nat) (data : Word)
  deriving DecidableEq, Repr

/-- One response (R40). `rdata` is `none` in the response to a write: the spec states no read data there, and
the model records none (log entry 9, safe). -/
structure Response where
  rdata : Option Word
  err : Bool
  deriving DecidableEq, Repr

/-- One entry of the record of bus transactions that an observation holds (R134). -/
structure BusEvent where
  req : BusRequest
  resp : Response
  deriving DecidableEq, Repr

/-- The host's scratch registers t0 to t7 (R69). -/
inductive Tmp where
  | t0 | t1 | t2 | t3 | t4 | t5 | t6 | t7
  deriving DecidableEq, Repr

/-- A bus location in a host script (R68): `NAME.j`, or a plain offset as in program P5 of 95_test_vectors.md. -/
inductive Loc where
  | named (r : Reg) (j : Nat)
  | offset (off : Nat)
  deriving DecidableEq, Repr

/-- A statement of the host-script notation (R69). A label is the index of the statement it names. -/
inductive Stmt where
  /-- `sw LOC, imm32` -/
  | swImm (loc : Loc) (imm : Word)
  /-- `sw LOC, tS` -/
  | swTmp (loc : Loc) (src : Tmp)
  /-- `lw tD, LOC` -/
  | lw (dst : Tmp) (loc : Loc)
  /-- `andi tD, tS, imm32` -/
  | andi (dst src : Tmp) (imm : Word)
  /-- `addi tD, tS, imm32` -/
  | addi (dst src : Tmp) (imm : Word)
  /-- `bnez tS, label` -/
  | bnez (src : Tmp) (label : Nat)
  /-- `beqz tS, label` -/
  | beqz (src : Tmp) (label : Nat)
  /-- `end` -/
  | stop
  deriving DecidableEq, Repr

/-- Which agent takes a step (R15): the host by one bus access of its own, the host by the next statement of its
script, the engine, or reset. -/
inductive Turn where
  | host (req : BusRequest)
  | script
  | engine
  | reset
  deriving DecidableEq, Repr

end Sys2Proof.Machine
end

