-- ==== Sys2Proof/WellFormed.lean ====
section
/-! DEFINITION. Which terms of the syntax the spec admits. The model runs ill-formed ones too (they are part of
"every state"); a statement that needs a check names it. -/

namespace Sys2Proof

/-- Every command is well-formed: it has no operand field that could be wrong (R59, R63). -/
def Instr.wf : Instr → Bool
  | .modinv => true
  | .curveLoad => true
  | .pdbl => true
  | .padd => true
  | .pmul => true

/-- A command word of format CMD32 (R59): RSVD must be 0 and OPCODE one of the assigned values (R60). -/
def commandWordWf (w : Word) : Bool :=
  w.toNat / 16 = 0 && 1 ≤ w.toNat % 16 && w.toNat % 16 ≤ 5

/-- The legal values of the parameters (R6). -/
def Params.wf (pr : Params) : Bool :=
  2 ≤ pr.w && pr.w ≤ 2048 && 2 ≤ pr.kw && pr.kw ≤ 2048 && pr.base % 0x2000 = 0

namespace Machine

/-- A transaction that the host port has (R41, R43): 32 bits wide, inside the window. -/
def BusRequest.wf (pr : Params) : BusRequest → Bool
  | .read addr size => size = 4 && pr.base ≤ addr && addr < pr.base + 0x2000
  | .write addr size _ => size = 4 && pr.base ≤ addr && addr < pr.base + 0x2000

/-- A location of a script lies in the window: a word index of at most 63 (R44, R48), or an offset below 0x2000. -/
def Loc.wf : Loc → Bool
  | .named _ j => j < 64
  | .offset off => off < 0x2000

/-- A statement of a script with `len` statements: its location lies in the window and its label names a
statement (R69). -/
def Stmt.wf (len : Nat) : Stmt → Bool
  | .swImm loc _ => loc.wf
  | .swTmp loc _ => loc.wf
  | .lw _ loc => loc.wf
  | .andi _ _ _ => true
  | .addi _ _ _ => true
  | .bnez _ label => label < len
  | .beqz _ label => label < len
  | .stop => true

/-- A script: its statements are well-formed and the last of them is `end` (R69), so that no run falls off it. -/
def scriptWf (prog : List Stmt) : Bool :=
  prog.all (Stmt.wf prog.length) && prog.getLast? == some .stop

end Machine

end Sys2Proof
end

