-- ==== Sys2Proof/Decode.lean ====
section
/-! DEFINITION. The command decoder (R59 to R62), total on every word and on every list of bytes, and after it the
encoder. A command word reaches the block as the data of a CMD write; as bytes it lies in the little-endian lane
order of R47. -/

namespace Sys2Proof

/-- Why a word or a list of bytes is no command. On the block every such word is accepted as ILLEGAL (R61, R62). -/
inductive DecodeError where
  /-- A nonzero bit in RSVD, `w[31:4]` (R59, R62). -/
  | reservedBits
  /-- OPCODE 0x0, or 0x6 to 0xF (R62). -/
  | unassignedOpcode
  /-- Fewer than the four bytes of a command word (R65). -/
  | truncated
  deriving DecidableEq, Repr

/-- `w[3:0]`, the OPCODE field (R59). -/
def opcodeField (w : Word) : Nat := w.toNat % 16

/-- `w[31:4]`, the RSVD field (R59). -/
def reservedField (w : Word) : Nat := w.toNat / 16

/-- The OPCODE assignments of R60. -/
def decodeOpcode : Nat → Except DecodeError Instr
  | 0x1 => .ok .modinv
  | 0x2 => .ok .curveLoad
  | 0x3 => .ok .pdbl
  | 0x4 => .ok .padd
  | 0x5 => .ok .pmul
  | _ => .error .unassignedOpcode

/-- `Decode(w)` of R61, which looks at RSVD first. -/
def decodeWord (w : Word) : Except DecodeError Instr :=
  if reservedField w ≠ 0 then .error .reservedBits else decodeOpcode (opcodeField w)

/-- Four byte lanes as a word, lane 0 first (R47). -/
def wordOfBytes (b0 b1 b2 b3 : Byte) : Word :=
  BitVec.ofNat 32 (b0.toNat + 0x100 * b1.toNat + 0x10000 * b2.toNat + 0x1000000 * b3.toNat)

/-- The four byte lanes of a word, lane 0 first (R47). -/
def bytesOfWord (w : Word) : List Byte :=
  [BitVec.ofNat 8 w.toNat, BitVec.ofNat 8 (w.toNat / 0x100), BitVec.ofNat 8 (w.toNat / 0x10000),
    BitVec.ofNat 8 (w.toNat / 0x1000000)]

/-- Decode the command word at the head of a list of bytes; every command is exactly one word (R65). The block itself
never sees a command as bytes (log entry 18). -/
def decodeBytes : List Byte → Except DecodeError (Instr × List Byte)
  | b0 :: b1 :: b2 :: b3 :: rest =>
    match decodeWord (wordOfBytes b0 b1 b2 b3) with
    | .ok i => .ok (i, rest)
    | .error e => .error e
  | _ => .error .truncated

/-- The word of a command (R60, column "word (match)"). -/
def encode : Instr → Word
  | .modinv => 0x00000001
  | .curveLoad => 0x00000002
  | .pdbl => 0x00000003
  | .padd => 0x00000004
  | .pmul => 0x00000005

/-- The bytes of a command's word. -/
def encodeBytes (i : Instr) : List Byte := bytesOfWord (encode i)

/-- The mnemonic of R67. -/
def Instr.mnemonic : Instr → String
  | .modinv => "MODINV"
  | .curveLoad => "CURVE_LOAD"
  | .pdbl => "PDBL"
  | .padd => "PADD"
  | .pmul => "PMUL"

/-- The eight hexadecimal digits of a word, the most significant first, in lower case (log entry 20). -/
def hexDigits (w : Word) : List Char :=
  [28, 24, 20, 16, 12, 8, 4, 0].map fun k => Nat.digitChar (w.toNat / 2 ^ k % 16)

/-- The disassembly of a command word: its mnemonic, or `.illegal 0x` and eight digits (R67). -/
def disassemble (w : Word) : String :=
  match decodeWord w with
  | .ok i => i.mnemonic
  | .error _ => String.ofList (".illegal 0x".toList ++ hexDigits w)

/-- The command word of a row of the opcode table whose bits are `w`: the bits above `nbits` are 0. -/
def tableWord (nbits w : Nat) : Word := BitVec.ofNat 32 (w % 2 ^ nbits)

/-- What the decoder reads from an instruction of `nbits` bits `w`, laid out as bytes. Every instruction is 32 bits
long (R65), so more bits than that are no instruction. -/
def decodeTableWord (nbits w : Nat) : Option Instr :=
  if 32 < nbits then none
  else
    match decodeBytes (bytesOfWord (tableWord nbits w)) with
    | .ok (i, _) => some i
    | .error _ => none

end Sys2Proof
end

