-- ==== Sys2Proof/Machine/State.lean ====
section
/-! DEFINITION. The state of the block, grouped as the record of R37, with the agents around it that R15, R69 and
R134 describe; the reasons a step can stop; and the state after reset. -/

namespace Sys2Proof.Machine

/-- A point value (R11). It is never a pair of coordinates that stands for infinity: the flag decides. -/
inductive Point where
  /-- The identity, `INF`. -/
  | inf
  /-- `Aff(x, y)`. -/
  | aff (x y : Nat)
  deriving DecidableEq, Repr

/-- The curve that the point commands compute on, `c = (a, b, P)` (R26, R84, R89). -/
structure FieldCurve where
  a : Nat
  b : Nat
  p : Nat
  deriving DecidableEq, Repr

/-- The error kinds of R100, codes 1 to 7. -/
inductive ErrorKind where
  | divisionUndefined | singularCurve | pointNotOnCurve | invalidScalar
  | invariantViolation | noCurve | illegalCommand
  deriving DecidableEq, Repr

/-- `ops` of R37: the operand registers, OPFLAGS as its two bits (R20). The engine never writes them (R16). -/
structure Operands where
  aInf : Bool
  bInf : Bool
  aX : Nat
  aY : Nat
  bX : Nat
  bY : Nat
  k : Nat
  invP : Nat
  invV : Nat
  cfgA : Nat
  cfgB : Nat
  cfgP : Nat
  cfgN : Nat
  cfgGx : Nat
  cfgGy : Nat
  deriving DecidableEq, Repr

/-- Every operand register 0 (R36). -/
def Operands.zero : Operands := ⟨false, false, 0, 0, 0, 0, 0, 0, 0, 0, 0, 0, 0, 0, 0⟩

/-- `curve` of R37: STATUS.CURVE_VALID and the CUR_* registers (R26). -/
structure LoadedCurve where
  valid : Bool
  a : Nat
  b : Nat
  p : Nat
  n : Nat
  gx : Nat
  gy : Nat
  deriving DecidableEq, Repr

/-- No curve loaded, every CUR_* register 0 (R36). -/
def LoadedCurve.zero : LoadedCurve := ⟨false, 0, 0, 0, 0, 0, 0⟩

/-- `result` of R37: RFLAGS.R_INF, R_X, R_Y and R_INV (R27, R28). -/
structure Results where
  inf : Bool
  x : Nat
  y : Nat
  inv : Nat
  deriving DecidableEq, Repr

/-- Every result register 0 (R36). -/
def Results.zero : Results := ⟨false, 0, 0, 0⟩

/-- `status` of R37: the STATUS fields but CURVE_VALID, which stands with the curve (R19). -/
structure Status where
  busy : Bool
  done : Bool
  dropped : Bool
  err : BitVec 4
  deriving DecidableEq, Repr

/-- Every STATUS field 0 (R36). -/
def Status.zero : Status := ⟨false, false, false, 0⟩

/-- The latch's copy of every register a command reads (R29). -/
structure Snapshot where
  ops : Operands
  curveValid : Bool
  curA : Nat
  curB : Nat
  curP : Nat
  deriving DecidableEq, Repr

/-- A snapshot of nothing. -/
def Snapshot.zero : Snapshot := ⟨Operands.zero, false, 0, 0, 0⟩

/-- `busy_op` of the latch (R29), and `empty` for the empty latch of R36 and R118. -/
inductive BusyOp where
  | empty
  /-- ILLEGAL: an accepted word that is no command (R61). -/
  | illegal
  | command (i : Instr)
  deriving DecidableEq, Repr

/-- The command latch (R29): hidden from every bus access. -/
structure Latch where
  op : BusyOp
  snapshot : Snapshot
  deriving DecidableEq, Repr

/-- The empty latch (R36). -/
def Latch.empty : Latch := ⟨.empty, Snapshot.zero⟩

/-- The host's 32-bit scratch registers (R69). -/
structure Scratch where
  t0 : Word
  t1 : Word
  t2 : Word
  t3 : Word
  t4 : Word
  t5 : Word
  t6 : Word
  t7 : Word
  deriving DecidableEq, Repr

/-- All scratch registers 0 (DEDUCED, log entry 8). -/
def Scratch.zero : Scratch := ⟨0, 0, 0, 0, 0, 0, 0, 0⟩

/-- The host script in progress: its statements, the index of the next one, and the scratch registers (R69). -/
structure HostScript where
  prog : List Stmt
  pc : Nat
  tmp : Scratch
  deriving DecidableEq, Repr

/-- No script: the host issues nothing of its own accord. -/
def HostScript.none : HostScript := ⟨[], 0, Scratch.zero⟩

/-- The whole machine: the block's state of R37 (`ops`, `curve`, `result`, `status`, `latch`), the parameters
of R6, and what surrounds the block: the host's script (R69), the turns that are still to come, oldest first
(R15), and the record of the bus transactions made, oldest first (R134). -/
structure State where
  params : Params
  ops : Operands
  curve : LoadedCurve
  result : Results
  status : Status
  latch : Latch
  script : HostScript
  turns : List Turn
  trace : List BusEvent
  deriving DecidableEq, Repr

/-- The reasons a step ends in a fault. No command and no access inside the window ever faults: an error of a
command is a completion that reports it (R108), and a misaligned access is answered with err = 1 (R42). -/
inductive Fault where
  /-- A host request whose address is not in the 8 KiB window at BASE (R41, R52). Raised by `busTransact` alone.
  Safe: such an address reaches another device, of which the spec says nothing (log entry 10). -/
  | outsideWindow
  deriving DecidableEq, Repr

/-- The reasons a step is refused. -/
inductive Refusal where
  /-- The arm of exec for an instruction that has no meaning yet. None is left. Safe. -/
  | notModelled (mnemonic : String)
  /-- A host request that is not exactly 32 bits wide: "the model refuses them" (R43).
  Raised by `busTransact` alone. Safe. -/
  | accessWidth
  deriving DecidableEq, Repr

/-! Updates of one field each. `Sys2Proof.Laws.State` has one lemma per field per update. -/

def State.setOps (v : Operands) (s : State) : State := { s with ops := v }
def State.setCurve (v : LoadedCurve) (s : State) : State := { s with curve := v }
def State.setResult (v : Results) (s : State) : State := { s with result := v }
def State.setStatus (v : Status) (s : State) : State := { s with status := v }
def State.setLatch (v : Latch) (s : State) : State := { s with latch := v }
def State.setScript (v : HostScript) (s : State) : State := { s with script := v }
def State.setTurns (v : List Turn) (s : State) : State := { s with turns := v }
def State.setTrace (v : List BusEvent) (s : State) : State := { s with trace := v }

/-- The block right after reset, in a build with these parameters (R36, R118, R119), with no script, no turn to
come and no transaction made. -/
def State.init (pr : Params) : State :=
  ⟨pr, .zero, .zero, .zero, .zero, .empty, .none, [], []⟩

/-- The machine right after reset. Every value is R36's; the parameters are those of the spec's vectors
(log entry 2). -/
def State.reset : State := .init .ofVectors

end Sys2Proof.Machine
end

