-- ==== Sys2Proof/Machine/Flags.lean ====
section
/-! DEFINITION. The status and flag words: the error codes of R100, and STATUS, OPFLAGS and RFLAGS as the words a
host reads (R19, R20, R27). The block has no arithmetic flag (R19, R85). -/

namespace Sys2Proof.Machine

/-- The code of an error kind in STATUS.ERR (R100). Code 0 is success; 8 to 15 are never produced. -/
def ErrorKind.code : ErrorKind → BitVec 4
  | .divisionUndefined => 1
  | .singularCurve => 2
  | .pointNotOnCurve => 3
  | .invalidScalar => 4
  | .invariantViolation => 5
  | .noCurve => 6
  | .illegalCommand => 7

/-- A flag as a number, for the words below. -/
def bit (b : Bool) : Nat := if b then 1 else 0

/-- The STATUS word (R19): BUSY at bit 0, DONE at 1, ERR at 7:4, CURVE_VALID at 8, DROPPED at 9; every other bit
reads 0. -/
def statusWord (st : Status) (curveValid : Bool) : Nat :=
  bit st.busy + 2 * bit st.done + 0x10 * st.err.toNat + 0x100 * bit curveValid + 0x200 * bit st.dropped

/-- The OPFLAGS word (R20): A_INF at bit 0, B_INF at bit 1. -/
def opflagsWord (o : Operands) : Nat := bit o.aInf + 2 * bit o.bInf

/-- The RFLAGS word (R27): R_INF at bit 0. -/
def rflagsWord (r : Results) : Nat := bit r.inf

/-- The PARAMS word (R17): W at 15:0, KW at 31:16. -/
def paramsWord (pr : Params) : Nat := pr.w + 0x10000 * pr.kw

/-- STATUS at an accept (R31): BUSY set, DONE and ERR cleared, DROPPED unchanged. -/
def Status.accepted (st : Status) : Status := { st with busy := true, done := false, err := 0 }

/-- STATUS at a dropped CMD write (R32). -/
def Status.afterDrop (st : Status) : Status := { st with dropped := true }

/-- STATUS after a write to STATUS word 0 (R35): bit 9 clears DROPPED, no other bit acts. -/
def Status.afterWrite (d : Word) (st : Status) : Status :=
  if d.getLsbD 9 then { st with dropped := false } else st

/-- STATUS at a completion with this ERR code (R108). -/
def Status.completed (code : BitVec 4) (st : Status) : Status :=
  { st with busy := false, done := true, err := code }

/-- OPFLAGS after a write to its word 0 (R20, R46). -/
def Operands.writeFlags (d : Word) (o : Operands) : Operands :=
  { o with aInf := d.getLsbD 0, bInf := d.getLsbD 1 }

end Sys2Proof.Machine
end

