-- ==== Sys2Proof/Machine/Operands.lean ====
section
/-! DEFINITION. The operand forms: integer notation (R8, R9), the operand registers by name, and what a command
reads from the latch snapshot (R22, R23, R26, R63, R64). -/

namespace Sys2Proof.Machine

/-- `mod(a, m)` of R8, for `m ≥ 1` the `r` with `0 ≤ r < m` and `m` dividing `a − r`; `a` may be negative.
For `m = 0` R8 gives none, and no rule asks for it (log entry 21). -/
def zmod (a : Int) (m : Nat) : Nat := (a % (m : Int)).toNat

/-- `bitlen(k)` of R9 for `k ≥ 1`; 0 for `k = 0`, where R9 gives none and no rule asks for it (log entry 21). -/
def bitlen (k : Nat) : Nat := if k = 0 then 0 else Nat.log2 k + 1

/-- `sext_N(v)` of R9. -/
def sext (n v : Nat) : Int := if v.testBit (n - 1) then (v : Int) - (2 ^ n : Nat) else (v : Int)

/-- `x[NAME]` for an operand register (R10). -/
def Operands.get (o : Operands) : OpReg → Nat
  | .aX => o.aX
  | .aY => o.aY
  | .bX => o.bX
  | .bY => o.bY
  | .k => o.k
  | .invP => o.invP
  | .invV => o.invV
  | .cfgA => o.cfgA
  | .cfgB => o.cfgB
  | .cfgP => o.cfgP
  | .cfgN => o.cfgN
  | .cfgGx => o.cfgGx
  | .cfgGy => o.cfgGy

/-- `x[NAME] <- v` for an operand register (R10). -/
def Operands.set (o : Operands) (r : OpReg) (v : Nat) : Operands :=
  match r with
  | .aX => { o with aX := v }
  | .aY => { o with aY := v }
  | .bX => { o with bX := v }
  | .bY => { o with bY := v }
  | .k => { o with k := v }
  | .invP => { o with invP := v }
  | .invV => { o with invV := v }
  | .cfgA => { o with cfgA := v }
  | .cfgB => { o with cfgB := v }
  | .cfgP => { o with cfgP := v }
  | .cfgN => { o with cfgN := v }
  | .cfgGx => { o with cfgGx := v }
  | .cfgGy => { o with cfgGy := v }

/-- A point operand from its INF flag and coordinate registers (R22). -/
def pointOperand (inf : Bool) (x y : Nat) : Point := if inf then .inf else .aff x y

/-- `PtA` of R22. -/
def Operands.ptA (o : Operands) : Point := pointOperand o.aInf o.aX o.aY

/-- `PtB` of R22. -/
def Operands.ptB (o : Operands) : Point := pointOperand o.bInf o.bX o.bY

/-- The scalar of PMUL, `sext_KW(x[K])` (R23). -/
def Operands.scalar (pr : Params) (o : Operands) : Int := sext pr.kw o.k

/-- The curve that a point command computes on, `c = (CUR_A, CUR_B, CUR_P)` (R26). -/
def Snapshot.curve (s : Snapshot) : FieldCurve := ⟨s.curA, s.curB, s.curP⟩

end Sys2Proof.Machine
end

