-- ==== Sys2Proof/Machine/Field.lean ====
section
/-! DEFINITION. modular_inverse_engine: the extended Euclidean loop and the inverse (R71, R74). -/

namespace Sys2Proof.Machine

/-- The loop variables of R71: two remainders and their Bezout coefficients. -/
structure Euclid where
  r0 : Nat
  r1 : Nat
  t0 : Int
  t1 : Int
  deriving DecidableEq, Repr

/-- The values before the loop: `(p, mod(value, p))` and `(0, 1)` (R71). -/
def euclidStart (p : Nat) (value : Int) : Euclid := ⟨p, zmod value p, 0, 1⟩

/-- One pass through the loop body of R71. -/
def euclidNext (e : Euclid) : Euclid :=
  ⟨e.r1, e.r0 - e.r0 / e.r1 * e.r1, e.t1, e.t0 - (e.r0 / e.r1 : Nat) * e.t1⟩

/-- At most `n` passes of the loop `while r1 != 0` of R71. -/
def euclidRun : Nat → Euclid → Euclid
  | 0, e => e
  | n + 1, e => if e.r1 = 0 then e else euclidRun n (euclidNext e)

/-- `ModInv(p, value)` of R71. `r1` falls with every pass and starts below `p`, so `p` passes are enough
(`Sys2Proof.Laws.euclidRun_ends`): the bound cuts no loop short (log entry 13). -/
def modInv (p : Nat) (value : Int) : Except ErrorKind Nat :=
  if p < 2 then .error .divisionUndefined
  else
    let e := euclidRun p (euclidStart p value)
    if e.r0 ≠ 1 then .error .divisionUndefined else .ok (zmod e.t0 p)

/-- `ModInvInternal(P, d)` of R74: a DivisionUndefined inside a point operation is an InvariantViolation. -/
def modInvInternal (p : Nat) (d : Int) : Except ErrorKind Nat :=
  match modInv p d with
  | .ok v => .ok v
  | .error _ => .error .invariantViolation

end Sys2Proof.Machine
end

