-- ==== Sys2Proof/Machine/Group.lean ====
section
/-! DEFINITION. The curve arithmetic: the curve equation and the checks that use it (R12, R77, R86), ecc_point_double
(R84), ecc_point_add (R89) and ecc_scalar_multiply_ladder (R94). All intermediate values are exact integers (R8). -/

namespace Sys2Proof.Machine

/-- `OnCurve(c, pt)` of R12. -/
def onCurve (c : FieldCurve) : Point → Bool
  | .inf => true
  | .aff x y =>
    x < c.p && y < c.p && zmod ((y : Int) ^ 2 - ((x : Int) ^ 3 + c.a * x + c.b)) c.p = 0

/-- The discriminant `mod(4·a³ + 27·b², P)` of R78. -/
def discriminant (c : FieldCurve) : Nat := zmod (4 * (c.a : Int) ^ 3 + 27 * (c.b : Int) ^ 2) c.p

/-- `CheckPoint(c, pt)` of R86. -/
def checkPoint (c : FieldCurve) (pt : Point) : Except ErrorKind Unit :=
  if onCurve c pt then .ok () else .error .pointNotOnCurve

/-- `CheckPoint` of several operands in turn (R90: A, then B); the first that raises decides. -/
def checkPoints (c : FieldCurve) : List Point → Except ErrorKind Unit
  | [] => .ok ()
  | pt :: pts =>
    match checkPoint c pt with
    | .error e => .error e
    | .ok _ => checkPoints c pts

/-- `CurveCheck(a_in, b_in, P, N, gx, gy)` of R77; the answer is the curve to load. -/
def curveCheck (aIn bIn p n gx gy : Nat) : Except ErrorKind LoadedCurve :=
  if p < 3 then .error .singularCurve
  else
    let a := zmod aIn p
    let b := zmod bIn p
    if discriminant ⟨a, b, p⟩ = 0 then .error .singularCurve
    else if !onCurve ⟨a, b, p⟩ (.aff gx gy) then .error .pointNotOnCurve
    else .ok ⟨true, a, b, p, n, gx, gy⟩

/-- The third intersection, reflected, of the line of slope `m` through `(x1, y1)` and a point with x coordinate
`x2`: the last two lines of R84 (with `x2 = x1`) and of R89. -/
def chord (p m x1 y1 x2 : Nat) : Point :=
  let x := zmod ((m : Int) ^ 2 - x1 - x2) p
  .aff x (zmod ((m : Int) * ((x1 : Int) - x) - y1) p)

/-- `PointDouble(c, pt)` of R84. -/
def pointDouble (c : FieldCurve) : Point → Except ErrorKind Point
  | .inf => .ok .inf
  | .aff x y =>
    if zmod y c.p = 0 then .ok .inf
    else
      match modInvInternal c.p (2 * (y : Int)) with
      | .error e => .error e
      | .ok u => .ok (chord c.p (zmod ((3 * (x : Int) ^ 2 + c.a) * u) c.p) x y x)

/-- `PointAdd(c, p1, p2)` of R89, its cases in the order of the rule. -/
def pointAdd (c : FieldCurve) (p1 p2 : Point) : Except ErrorKind Point :=
  match p1, p2 with
  | .inf, q => .ok q
  | .aff x1 y1, .inf => .ok (.aff x1 y1)
  | .aff x1 y1, .aff x2 y2 =>
    if x1 = x2 ∧ y1 = y2 then pointDouble c (.aff x1 y1)
    else if x1 = x2 then .ok .inf
    else
      match modInvInternal c.p ((x2 : Int) - x1) with
      | .error e => .error e
      | .ok u => .ok (chord c.p (zmod (((y2 : Int) - y1) * u) c.p) x1 y1 x2)

/-- The group operations of the ladder (R94, R96). -/
inductive GroupOp where
  /-- `acc <- PointDouble(c, acc)` -/
  | double
  /-- `acc <- PointAdd(c, acc, pt)` -/
  | addPoint
  deriving DecidableEq, Repr

/-- The operations that R94's loop performs for the bits `i` from `n − 1` down to 0 of `k`. -/
def ladderOps (k : Nat) : Nat → List GroupOp
  | 0 => []
  | i + 1 => if k.testBit i then .double :: .addPoint :: ladderOps k i else .double :: ladderOps k i

/-- One operation of the ladder on the accumulator; the accumulator is the first operand of the add (R94). -/
def GroupOp.apply (c : FieldCurve) (pt acc : Point) : GroupOp → Except ErrorKind Point
  | .double => pointDouble c acc
  | .addPoint => pointAdd c acc pt

/-- The operations in order; the first that raises ends the ladder with its error (R94, R97). -/
def runOps (c : FieldCurve) (pt : Point) : List GroupOp → Point → Except ErrorKind Point
  | [], acc => .ok acc
  | op :: ops, acc =>
    match op.apply c pt acc with
    | .error e => .error e
    | .ok acc' => runOps c pt ops acc'

/-- `Ladder(c, pt, k)` of R94: the accumulator starts at `pt`, the implicit leading 1. -/
def ladder (c : FieldCurve) (pt : Point) (k : Nat) : Except ErrorKind Point :=
  if k = 0 then .ok .inf else runOps c pt (ladderOps k (bitlen k - 1)) pt

end Sys2Proof.Machine
end

