-- ==== Sys2Proof/Machine/Ops.lean ====
section
/-! DEFINITION. The named operations that every meaning and every bus access goes through: the register file as the
host sees it (R16, R44 to R49), the accept and the drop of a command (R31, R32), the completion that ends every
command, successful or not (R108; this is what other machines call taking an exception), reset (R118), and one
bus transaction (R41 to R46). -/

namespace Sys2Proof.Machine

/-! ## The register file -/

/-- The index of an operand register (R16). -/
def OpReg.index : OpReg → Nat
  | .aX => 0x04
  | .aY => 0x05
  | .bX => 0x06
  | .bY => 0x07
  | .k => 0x08
  | .invP => 0x09
  | .invV => 0x0A
  | .cfgA => 0x0B
  | .cfgB => 0x0C
  | .cfgP => 0x0D
  | .cfgN => 0x0E
  | .cfgGx => 0x0F
  | .cfgGy => 0x10

/-- The index of a register (R16). -/
def Reg.index : Reg → Nat
  | .params => 0x00
  | .cmd => 0x01
  | .status => 0x02
  | .opflags => 0x03
  | .operand r => r.index
  | .curA => 0x11
  | .curB => 0x12
  | .curP => 0x13
  | .curN => 0x14
  | .curGx => 0x15
  | .curGy => 0x16
  | .rX => 0x17
  | .rY => 0x18
  | .rflags => 0x19
  | .rInv => 0x1A

/-- The register of an index, `none` for the reserved ones (R16). -/
def Reg.ofIndex : Nat → Option Reg
  | 0x00 => some .params
  | 0x01 => some .cmd
  | 0x02 => some .status
  | 0x03 => some .opflags
  | 0x04 => some (.operand .aX)
  | 0x05 => some (.operand .aY)
  | 0x06 => some (.operand .bX)
  | 0x07 => some (.operand .bY)
  | 0x08 => some (.operand .k)
  | 0x09 => some (.operand .invP)
  | 0x0A => some (.operand .invV)
  | 0x0B => some (.operand .cfgA)
  | 0x0C => some (.operand .cfgB)
  | 0x0D => some (.operand .cfgP)
  | 0x0E => some (.operand .cfgN)
  | 0x0F => some (.operand .cfgGx)
  | 0x10 => some (.operand .cfgGy)
  | 0x11 => some .curA
  | 0x12 => some .curB
  | 0x13 => some .curP
  | 0x14 => some .curN
  | 0x15 => some .curGx
  | 0x16 => some .curGy
  | 0x17 => some .rX
  | 0x18 => some .rY
  | 0x19 => some .rflags
  | 0x1A => some .rInv
  | _ => none

/-- The width in bits of an operand register (R16): KW for K, W for the others. -/
def OpReg.width (pr : Params) : OpReg → Nat
  | .k => pr.kw
  | .aX | .aY | .bX | .bY | .invP | .invV | .cfgA | .cfgB | .cfgP | .cfgN | .cfgGx | .cfgGy => pr.w

/-- `ceil(n / 32)`, the words of a register of `n` bits: NW and NK of R6. -/
def wordsOfWidth (n : Nat) : Nat := (n + 31) / 32

/-- `Words(r)` of R45. -/
def Reg.words (pr : Params) : Reg → Nat
  | .params | .cmd | .status | .opflags | .rflags => 1
  | .operand r => wordsOfWidth (r.width pr)
  | .curA | .curB | .curP | .curN | .curGx | .curGy | .rX | .rY | .rInv => wordsOfWidth pr.w

/-- `x[NAME]` as the host reads it (R10, R17 to R28). CMD reads 0 (R18). -/
def State.readReg (s : State) : Reg → Nat
  | .params => paramsWord s.params
  | .cmd => 0
  | .status => statusWord s.status s.curve.valid
  | .opflags => opflagsWord s.ops
  | .operand r => s.ops.get r
  | .curA => s.curve.a
  | .curB => s.curve.b
  | .curP => s.curve.p
  | .curN => s.curve.n
  | .curGx => s.curve.gx
  | .curGy => s.curve.gy
  | .rX => s.result.x
  | .rY => s.result.y
  | .rflags => rflagsWord s.result
  | .rInv => s.result.inv

/-- `v[32j+31 : 32j]` (R9, R47). -/
def wordSlice (v j : Nat) : Nat := v / 2 ^ (32 * j) % 2 ^ 32

/-- `ReplaceWord(v, j, d)` of R47. -/
def replaceWord (v j : Nat) (d : Word) : Nat :=
  v - wordSlice v j * 2 ^ (32 * j) + d.toNat * 2 ^ (32 * j)

/-- The register index of an offset, `off[12:8]` (R44). -/
def offIndex (off : Nat) : Nat := off / 0x100 % 0x20

/-- The word index of an offset, `off[7:2]` (R44). -/
def offWord (off : Nat) : Nat := off / 4 % 0x40

/-- The data of an aligned read of word `j` of the register with this index (R45). -/
def State.readWord (s : State) (index j : Nat) : Word :=
  match Reg.ofIndex index with
  | none => 0
  | some r => if j < r.words s.params then BitVec.ofNat 32 (wordSlice (s.readReg r) j) else 0

/-! ## The life of a command -/

/-- The copy of every register a command reads (R29). -/
def State.takeSnapshot (s : State) : Snapshot :=
  ⟨s.ops, s.curve.valid, s.curve.a, s.curve.b, s.curve.p⟩

/-- `LATCH.busy_op` for a command word: `Decode(w)` of R61, where an undecodable word is ILLEGAL. -/
def busyOp (w : Word) : BusyOp :=
  match decodeWord w with
  | .ok i => .command i
  | .error _ => .illegal

/-- Accept of a command word (R31). -/
def State.accept (w : Word) (s : State) : State :=
  (s.setLatch ⟨busyOp w, s.takeSnapshot⟩).setStatus s.status.accepted

/-- Drop of a command word (R32). -/
def State.drop (s : State) : State := s.setStatus s.status.afterDrop

/-- The registers that a command writes when it succeeds (R63). -/
inductive Writes where
  /-- R_INV (R72). -/
  | inverse (v : Nat)
  /-- CUR_* and CURVE_VALID (R80, R81). -/
  | curve (c : LoadedCurve)
  /-- `WritePoint(r)`: RFLAGS.R_INF, R_X and R_Y (R22). -/
  | point (pt : Point)
  deriving DecidableEq, Repr

/-- `WritePoint` of R22; R_INV is not one of its registers. -/
def Results.writePoint (r : Results) : Point → Results
  | .inf => { r with inf := true, x := 0, y := 0 }
  | .aff x y => { r with inf := false, x := x, y := y }

/-- Apply a successful command's writes (R108). -/
def State.applyWrites (s : State) : Writes → State
  | .inverse v => s.setResult { s.result with inv := v }
  | .curve c => s.setCurve c
  | .point pt => s.setResult (s.result.writePoint pt)

/-- The end of every completion: STATUS as R108 says, and an empty latch (log entry 5). -/
def State.finish (code : BitVec 4) (s : State) : State :=
  (s.setStatus (s.status.completed code)).setLatch .empty

/-- The completion step (R33, R108): the outcome's writes and ERR <- 0, or ERR <- the error's code and no other
register. BUSY and DONE in either case. -/
def State.complete (outcome : Except ErrorKind Writes) (s : State) : State :=
  match outcome with
  | .ok ws => (s.applyWrites ws).finish 0
  | .error e => s.finish e.code

/-- The completion of an illegal command word (R104): `Exec(ILLEGAL, s)` raises IllegalCommand. -/
def State.completeIllegal (s : State) : State := s.complete (.error .illegalCommand)

/-- Reset (R118): every register at its value in R36, the latch empty, a command in flight abandoned. PARAMS is not
changed. The host's script, the turns to come and the record of transactions lie outside the block (log entry 12). -/
def State.resetBlock (s : State) : State :=
  (((State.init s.params).setScript s.script).setTurns s.turns).setTrace s.trace

/-! ## Bus accesses -/

/-- The effect of an aligned write of `d` to word `j` of the register with this index (R46). Read-only, reserved
and out-of-range locations ignore it. -/
def State.writeWord (s : State) (index j : Nat) (d : Word) : State :=
  match Reg.ofIndex index with
  | none => s
  | some .cmd => if j = 0 then (if s.status.busy then s.drop else s.accept d) else s
  | some .status => if j = 0 then s.setStatus (s.status.afterWrite d) else s
  | some .opflags => if j = 0 then s.setOps (s.ops.writeFlags d) else s
  | some (.operand r) =>
    if j < wordsOfWidth (r.width s.params) then
      s.setOps (s.ops.set r (replaceWord (s.ops.get r) j d % 2 ^ r.width s.params))
    else s
  | some .params | some .curA | some .curB | some .curP | some .curN | some .curGx | some .curGy
  | some .rX | some .rY | some .rflags | some .rInv => s

/-- The response to a read at an offset (R42, R45): data 0 and err = 1 when it is misaligned (log entry 6). -/
def State.busRead (s : State) (off : Nat) : Word × Bool :=
  if off % 4 ≠ 0 then (0, true) else (s.readWord (offIndex off) (offWord off), false)

/-- The effect of a write at an offset, and its err bit (R42, R46): a misaligned one has no effect. -/
def State.busWrite (s : State) (off : Nat) (d : Word) : State × Bool :=
  if off % 4 ≠ 0 then (s, true) else (s.writeWord (offIndex off) (offWord off) d, false)

/-- Add a transaction to the record of R134. -/
def State.record (s : State) (req : BusRequest) (resp : Response) : State :=
  s.setTrace (s.trace ++ [⟨req, resp⟩])

/-- The bus address of a request. -/
def BusRequest.addr : BusRequest → Nat
  | .read addr _ => addr
  | .write addr _ _ => addr

/-- The width in bytes of a request. -/
def BusRequest.size : BusRequest → Nat
  | .read _ size => size
  | .write _ size _ => size

/-- The address lies in the window at BASE (R41). -/
def inWindow (pr : Params) (addr : Nat) : Bool := pr.base ≤ addr && addr < pr.base + 0x2000

/-- `off = addr[12:0]`, all of an address that the block decodes (R41). -/
def windowOff (addr : Nat) : Nat := addr % 0x2000

/-- One transaction of the host as one indivisible step (R41 to R46, R55): the state after it and its response.
The width is looked at first, then the window (log entry 17). -/
def busTransact (req : BusRequest) (s : State) : Host.Outcome (State × Response) Fault Refusal :=
  if req.size ≠ 4 then .refused .accessWidth
  else if !inWindow s.params req.addr then .fault .outsideWindow
  else
    match req with
    | .read addr _ =>
      let (d, err) := s.busRead (windowOff addr)
      .next (s.record req ⟨some d, err⟩, ⟨some d, err⟩)
    | .write addr _ d =>
      let (s', err) := s.busWrite (windowOff addr) d
      .next (s'.record req ⟨none, err⟩, ⟨none, err⟩)

end Sys2Proof.Machine
end

