-- ==== Sys2Proof/Machine/Curve.lean ====
section
/-! DEFINITION. CURVE_LOAD (R80). -/

namespace Sys2Proof.Machine

/-- `Exec(CURVE_LOAD, s)` of R80. -/
def evalCurveLoad (s : Snapshot) : Except ErrorKind Writes :=
  match curveCheck s.ops.cfgA s.ops.cfgB s.ops.cfgP s.ops.cfgN s.ops.cfgGx s.ops.cfgGy with
  | .error e => .error e
  | .ok c => .ok (.curve c)

/-- The completion of CURVE_LOAD on the latched operands (R33, R80, R108). -/
def execCurveLoad (s : State) : Host.Outcome State Fault Refusal :=
  .next (s.complete (evalCurveLoad s.latch.snapshot))

end Sys2Proof.Machine
end

