-- ==== Sys2Proof/Machine/Inverse.lean ====
section
/-! DEFINITION. MODINV (R72). -/

namespace Sys2Proof.Machine

/-- `Exec(MODINV, s)` of R72. It needs no curve. -/
def evalModinv (s : Snapshot) : Except ErrorKind Writes :=
  match modInv s.ops.invP s.ops.invV with
  | .error e => .error e
  | .ok v => .ok (.inverse v)

/-- The completion of MODINV on the latched operands (R33, R72, R108). -/
def execModinv (s : State) : Host.Outcome State Fault Refusal :=
  .next (s.complete (evalModinv s.latch.snapshot))

end Sys2Proof.Machine
end

