-- ==== Sys2Proof/Machine/PointOps.lean ====
section
/-! DEFINITION. PDBL (R85) and PADD (R90), and the two things that all point commands share. -/

namespace Sys2Proof.Machine

/-- The first checks of a point command, in the order of R106: a curve is loaded (R103), then each point operand in
turn passes CheckPoint (R86). What follows them is computed on the loaded curve. -/
def onLoadedCurve (s : Snapshot) (pts : List Point) (rest : Except ErrorKind Writes) : Except ErrorKind Writes :=
  if !s.curveValid then .error .noCurve
  else
    match checkPoints s.curve pts with
    | .error e => .error e
    | .ok _ => rest

/-- A point result as the command's writes (R22); an error stays the error. -/
def pointWrites : Except ErrorKind Point → Except ErrorKind Writes
  | .error e => .error e
  | .ok pt => .ok (.point pt)

/-- `Exec(PDBL, s)` of R85. -/
def evalPdbl (s : Snapshot) : Except ErrorKind Writes :=
  onLoadedCurve s [s.ops.ptA] (pointWrites (pointDouble s.curve s.ops.ptA))

/-- `Exec(PADD, s)` of R90. -/
def evalPadd (s : Snapshot) : Except ErrorKind Writes :=
  onLoadedCurve s [s.ops.ptA, s.ops.ptB] (pointWrites (pointAdd s.curve s.ops.ptA s.ops.ptB))

/-- The completion of PDBL on the latched operands (R33, R85, R108). -/
def execPdbl (s : State) : Host.Outcome State Fault Refusal :=
  .next (s.complete (evalPdbl s.latch.snapshot))

/-- The completion of PADD on the latched operands (R33, R90, R108). -/
def execPadd (s : State) : Host.Outcome State Fault Refusal :=
  .next (s.complete (evalPadd s.latch.snapshot))

end Sys2Proof.Machine
end

