-- ==== Sys2Proof/Machine/Scalar.lean ====
section
/-! DEFINITION. PMUL (R95). -/

namespace Sys2Proof.Machine

/-- `Exec(PMUL, s)` of R95: the point is checked before the scalar (R106). The parameter is KW, the width at which the
scalar's sign is read (R23). -/
def evalPmul (pr : Params) (s : Snapshot) : Except ErrorKind Writes :=
  onLoadedCurve s [s.ops.ptA]
    (if s.ops.scalar pr < 0 then .error .invalidScalar
     else pointWrites (ladder s.curve s.ops.ptA (s.ops.scalar pr).toNat))

/-- The completion of PMUL on the latched operands (R33, R95, R108). -/
def execPmul (s : State) : Host.Outcome State Fault Refusal :=
  .next (s.complete (evalPmul s.params s.latch.snapshot))

end Sys2Proof.Machine
end

