-- ==== Sys2Proof/Machine/Dispatch.lean ====
section
/-! DEFINITION. Exec(op, LATCH.snapshot) with its completion (R33, R108): one meaning per command. -/

namespace Sys2Proof.Machine

/-- The completion step of command `i`, on the operands that the latch of `s` holds (R33). It is asked for only while
BUSY = 1, by `engineStep`, and does not look at BUSY itself (log entry 14). -/
def exec (i : Instr) (s : State) : Host.Outcome State Fault Refusal :=
  match i with
  | .modinv => Sys2Proof.Machine.execModinv s
  | .curveLoad => Sys2Proof.Machine.execCurveLoad s
  | .pdbl => Sys2Proof.Machine.execPdbl s
  | .padd => Sys2Proof.Machine.execPadd s
  | .pmul => Sys2Proof.Machine.execPmul s

end Sys2Proof.Machine
end

