-- ==== Sys2Proof/Machine/Script.lean ====
section
/-! DEFINITION. The host script: the statements of R69 as steps of the host agent, and the pseudo-instructions of R70
with their expansions. It is not an instruction set of the block (R69): a statement reaches the block only through
`busTransact`. -/

namespace Sys2Proof.Machine

/-- Read a scratch register (R69). -/
def Scratch.get (t : Scratch) : Tmp → Word
  | .t0 => t.t0
  | .t1 => t.t1
  | .t2 => t.t2
  | .t3 => t.t3
  | .t4 => t.t4
  | .t5 => t.t5
  | .t6 => t.t6
  | .t7 => t.t7

/-- Write a scratch register (R69). -/
def Scratch.set (t : Scratch) (r : Tmp) (v : Word) : Scratch :=
  match r with
  | .t0 => { t with t0 := v }
  | .t1 => { t with t1 := v }
  | .t2 => { t with t2 := v }
  | .t3 => { t with t3 := v }
  | .t4 => { t with t4 := v }
  | .t5 => { t with t5 := v }
  | .t6 => { t with t6 := v }
  | .t7 => { t with t7 := v }

/-- `off(NAME.j) = index(NAME)·0x100 + 4·j` (R68). -/
def Loc.off : Loc → Nat
  | .named r j => r.index * 0x100 + 4 * j
  | .offset off => off

/-- `pc <- pc + 1` (R69). -/
def HostScript.advance (h : HostScript) : HostScript := { h with pc := h.pc + 1 }

/-- `pc <- label` (R69). -/
def HostScript.jump (label : Nat) (h : HostScript) : HostScript := { h with pc := label }

/-- `tD <- v` (R69). -/
def HostScript.setTmp (r : Tmp) (v : Word) (h : HostScript) : HostScript := { h with tmp := h.tmp.set r v }

/-- `sw` (R69): one write transaction, then the next statement. -/
def State.scriptStore (loc : Loc) (v : Word) (s : State) : Host.Outcome State Fault Refusal :=
  match busTransact (.write (s.params.base + loc.off) 4 v) s with
  | .next (s', _) => .next (s'.setScript s'.script.advance)
  | .fault f => .fault f
  | .refused r => .refused r

/-- `lw` (R69): one read transaction, whose data goes to tD, then the next statement. -/
def State.scriptLoad (dst : Tmp) (loc : Loc) (s : State) : Host.Outcome State Fault Refusal :=
  match busTransact (.read (s.params.base + loc.off) 4) s with
  | .next (s', resp) => .next (s'.setScript (s'.script.setTmp dst (resp.rdata.getD 0)).advance)
  | .fault f => .fault f
  | .refused r => .refused r

/-- One statement of the script (R69). `end` stops the script: pc is not advanced. -/
def State.runStmt (s : State) : Stmt → Host.Outcome State Fault Refusal
  | .swImm loc imm => s.scriptStore loc imm
  | .swTmp loc src => s.scriptStore loc (s.script.tmp.get src)
  | .lw dst loc => s.scriptLoad dst loc
  | .andi dst src imm =>
    .next (s.setScript (s.script.setTmp dst (s.script.tmp.get src &&& imm)).advance)
  | .addi dst src imm =>
    .next (s.setScript (s.script.setTmp dst (s.script.tmp.get src + imm)).advance)
  | .bnez src label =>
    .next (s.setScript (if s.script.tmp.get src ≠ 0 then s.script.jump label else s.script.advance))
  | .beqz src label =>
    .next (s.setScript (if s.script.tmp.get src = 0 then s.script.jump label else s.script.advance))
  | .stop => .next s

/-- The host's turn with its script: the statement at pc. With none there the host issues nothing (log entry 7). -/
def State.scriptStep (s : State) : Host.Outcome State Fault Refusal :=
  match s.script.prog[s.script.pc]? with
  | none => .next s
  | some st => s.runStmt st

/-! ## The pseudo-instructions of R70 -/

/-- `cmd MNEMONIC`. -/
def pseudoCmd (i : Instr) : List Stmt := [.swImm (.named .cmd 0) (encode i)]

/-- `wait`, placed at statement index `at_`, which is what its fresh label names. -/
def pseudoWait (at_ : Nat) : List Stmt :=
  [.lw .t7 (.named .status 0), .andi .t7 .t7 1, .bnez .t7 at_]

/-- `wr NAME, value`: one `sw` for each word of the register. -/
def pseudoWr (pr : Params) (r : Reg) (value : Nat) : List Stmt :=
  (List.range (r.words pr)).map fun j => .swImm (.named r j) (BitVec.ofNat 32 (wordSlice value j))

/-- `rdw tD, NAME.j`. -/
def pseudoRdw (dst : Tmp) (r : Reg) (j : Nat) : List Stmt := [.lw dst (.named r j)]

/-- `clrdrop`. -/
def pseudoClrdrop : List Stmt := [.swImm (.named .status 0) 0x200]

/-- `call MNEMONIC`, placed at statement index `at_`: `cmd`, then `wait`. -/
def pseudoCall (i : Instr) (at_ : Nat) : List Stmt := pseudoCmd i ++ pseudoWait (at_ + 1)

end Sys2Proof.Machine
end

