-- ==== Sys2Proof/Machine/Agents.lean ====
section
/-! DEFINITION. The agents of R15 and the order of their steps: what each turn does, and which agent moves when no
turn is prescribed. -/

namespace Sys2Proof.Machine

/-- The engine's turn (R33, R133): while BUSY = 1 its one enabled step is the completion of the latched command;
otherwise it has none, and the turn changes nothing. BUSY = 1 with an empty latch is no reachable state
(`State.Inv`); the engine has no command to complete there (log entry 11). -/
def engineStep (s : State) : Host.Outcome State Fault Refusal :=
  if s.status.busy then
    match s.latch.op with
    | .command i => exec i s
    | .illegal => .next s.completeIllegal
    | .empty => .next s
  else .next s

/-- The host's turn with one access of its own (R15, R41). -/
def hostStep (req : BusRequest) (s : State) : Host.Outcome State Fault Refusal :=
  match busTransact req s with
  | .next (s', _) => .next s'
  | .fault f => .fault f
  | .refused r => .refused r

/-- What a turn does (R15). -/
def runTurn (t : Turn) (s : State) : Host.Outcome State Fault Refusal :=
  match t with
  | .host req => hostStep req s
  | .script => s.scriptStep
  | .engine => engineStep s
  | .reset => .next s.resetBlock

/-- The turn when none is prescribed: the engine while a command is in flight, so that every completion is taken at
last (weak fairness, R131), and the script otherwise (DESIGN CHOICE, log entry 4). -/
def defaultTurn (s : State) : Turn := if s.status.busy then .engine else .script

/-- The oldest prescribed turn, or the default one. -/
def runNextTurn (s : State) : Host.Outcome State Fault Refusal :=
  match s.turns with
  | [] => runTurn (defaultTurn s) s
  | t :: rest => runTurn t (s.setTurns rest)

/-- The state in which command word `w` has just been accepted (R31) and the engine moves next. -/
def State.placeCommand (w : Word) (s : State) : State :=
  (s.accept w).setTurns (.engine :: s.turns)

end Sys2Proof.Machine
end

