-- ==== Sys2Proof/Machine/Step.lean ====
section
/-! DEFINITION. One step of the whole machine, and how a command comes to be the next thing that runs. -/

namespace Sys2Proof.Machine

/-- One step of one agent (R15): indivisible, and the only thing that happens in it (R41, R55). -/
def step (s : State) : Host.Outcome State Fault Refusal := runNextTurn s

/-- The block fetches no instructions (R58): a command waits in the latch, where its accept put it (R31). This is
the state right after that accept, in which the next step is the completion of exactly that command (log entry 3). -/
def State.withFetchWord (s : State) (nbits w : Nat) : State := s.placeCommand (tableWord nbits w)

end Sys2Proof.Machine
end

