-- ==== Sys2Proof/Machine/Observe.lean ====
section
/-! DEFINITION. Quiescence, the end of a run and what is observed there (R133, R134). -/

namespace Sys2Proof.Machine

/-- The block is quiescent (R133). -/
def State.quiescent (s : State) : Bool := !s.status.busy

/-- The host has reached `end` (R69, R134). -/
def State.scriptAtEnd (s : State) : Bool := s.script.prog[s.script.pc]? == some .stop

/-- The run of the script has ended: the host is at `end` and the block is quiescent (R134). -/
def State.runEnded (s : State) : Bool := s.scriptAtEnd && s.quiescent

/-- The observation of R134: the registers of R37 (the latch is hidden, and empty at the end of a run), the scratch
registers, and every bus transaction with its response. -/
structure Observation where
  ops : Operands
  curve : LoadedCurve
  result : Results
  status : Status
  tmp : Scratch
  trace : List BusEvent
  deriving DecidableEq, Repr

/-- What is observed of a state. -/
def State.observe (s : State) : Observation :=
  ⟨s.ops, s.curve, s.result, s.status, s.script.tmp, s.trace⟩

end Sys2Proof.Machine
end

