-- ==== Sys2Proof/Safety.lean ====
section
/-! DEFINITION. The invariant that every step keeps, part by part: the value ranges of R38, the flag facts of R19, the
loaded-curve invariants of R26, and the latch. -/

namespace Sys2Proof.Machine

/-- The registers of R37 and PARAMS are the same in both states. -/
def SameRegisters (s t : State) : Prop :=
  t.params = s.params ∧ t.ops = s.ops ∧ t.curve = s.curve ∧ t.result = s.result ∧ t.status = s.status ∧
  t.latch = s.latch

/-- Every operand register holds an integer of its width (R38). -/
def Operands.InRange (pr : Params) (o : Operands) : Prop := ∀ r : OpReg, o.get r < 2 ^ r.width pr

/-- Every CUR_* register holds a W-bit integer (R38). -/
def LoadedCurve.InRange (pr : Params) (c : LoadedCurve) : Prop :=
  c.a < 2 ^ pr.w ∧ c.b < 2 ^ pr.w ∧ c.p < 2 ^ pr.w ∧ c.n < 2 ^ pr.w ∧ c.gx < 2 ^ pr.w ∧ c.gy < 2 ^ pr.w

/-- Every result register holds a W-bit integer (R38), and INF is written with zero coordinates (R22). -/
def Results.InRange (pr : Params) (r : Results) : Prop :=
  r.x < 2 ^ pr.w ∧ r.y < 2 ^ pr.w ∧ r.inv < 2 ^ pr.w ∧ (r.inf = true → r.x = 0 ∧ r.y = 0)

/-- The curve that the point commands read, as a FieldCurve (R26). -/
def LoadedCurve.field (c : LoadedCurve) : FieldCurve := ⟨c.a, c.b, c.p⟩

/-- What R26 says of the CUR_* registers: with a curve loaded, P ≥ 3, the coefficients are reduced, the
discriminant is not 0 and G lies on the curve; with none loaded, they still hold their reset value 0. -/
def LoadedCurve.Sound (c : LoadedCurve) : Prop :=
  if c.valid then
    3 ≤ c.p ∧ c.a < c.p ∧ c.b < c.p ∧ discriminant c.field ≠ 0 ∧ onCurve c.field (.aff c.gx c.gy) = true
  else c = .zero

/-- The flag facts of R19 (BUSY and DONE never hold together; ERR = 0 while BUSY = 1) and of R100 (codes 8 to 15
are never produced). -/
def Status.Legal (st : Status) : Prop :=
  ¬(st.busy = true ∧ st.done = true) ∧ (st.busy = true → st.err = 0) ∧ st.err.toNat ≤ 7

/-- The latch (R29, R36): it is empty exactly while no command is in flight; the operands it copied were in range;
and since only a completion writes the curve, the curve it copied is still the loaded one. -/
def State.LatchSound (s : State) : Prop :=
  (s.status.busy = true ↔ s.latch.op ≠ .empty) ∧
  s.latch.snapshot.ops.InRange s.params ∧
  (s.status.busy = true →
    s.latch.snapshot.curveValid = s.curve.valid ∧ s.latch.snapshot.curve = s.curve.field)

/-- The invariant of the machine. -/
structure State.Inv (s : State) : Prop where
  params_wf : s.params.wf = true
  ops_inRange : s.ops.InRange s.params
  curve_inRange : s.curve.InRange s.params
  curve_sound : s.curve.Sound
  result_inRange : s.result.InRange s.params
  status_legal : s.status.Legal
  latch_sound : s.LatchSound

end Sys2Proof.Machine
end

