-- ==== Sys2Proof/Certificates/Slice0/Obligations.lean ====
section
/-! DEFINITION. The statements for the provers. A claim about a command speaks of `exec i s`, its completion step on
the operands that the latch of `s` holds (R33); `StepRunsTheLatchedCommand` ties that to `step`. The right sides
are written in plain arithmetic where the spec gives a law for the value, so that no claim only repeats a definition. -/

namespace Sys2Proof.Machine.Claim

/-! ## Words that the statements share -/

/-- The bus address of word `j` of the register with index `n` (R16, R68). -/
def wordAddr (pr : Params) (n j : Nat) : Nat := pr.base + n * 0x100 + 4 * j

/-- `s` with the turns still to come replaced by `rest` and one transaction added to the record. (What the record
keeps as the data of a write's response, `none`, is the model's: log entry 9.) -/
def logged (s : State) (rest : List Turn) (req : BusRequest) (resp : Response) : State :=
  { s with turns := rest, trace := s.trace ++ [⟨req, resp⟩] }

/-- The STATUS fields that a completion leaves: BUSY 0, DONE 1, this ERR, DROPPED as it was (R108). -/
def completedStatus (s : State) (err : BitVec 4) : Status := ⟨false, true, s.status.dropped, err⟩

/-- `s` after an error completion: STATUS, and no register besides (R108); the latch is empty (log entry 5). -/
def endsWithError (s : State) (err : BitVec 4) : State :=
  { s with status := completedStatus s err, latch := .empty }

/-- `s` after a success that writes these result registers. -/
def endsWithResult (s : State) (r : Results) : State :=
  { s with result := r, status := completedStatus s 0, latch := .empty }

/-- The point result registers for a point (R22); R_INV is `inv`. -/
def pointResult (inv : Nat) : Point → Results
  | .inf => ⟨true, 0, 0, inv⟩
  | .aff x y => ⟨false, x, y, inv⟩

/-- `s` after a success with this point result. -/
def endsWithPoint (s : State) (pt : Point) : State := endsWithResult s (pointResult s.result.inv pt)

/-- The coordinates are in range and satisfy `y² = x³ + a·x + b (mod P)` (R12). -/
def LiesOn (c : FieldCurve) (x y : Nat) : Prop :=
  x < c.p ∧ y < c.p ∧ y ^ 2 % c.p = (x ^ 3 + c.a * x + c.b) % c.p

/-- What CheckPoint lets pass (R86). -/
def Passes (c : FieldCurve) : Point → Prop
  | .inf => True
  | .aff x y => LiesOn c x y

/-- `(x3, y3)` is the reflected third point of the line of slope `m` through `(x1, y1)` and an x coordinate `x2`,
both reduced into `[0, P)`: the last two lines of R84 and R89 without a subtraction. -/
def IsChordPoint (p m x1 y1 x2 x3 y3 : Nat) : Prop :=
  x3 < p ∧ y3 < p ∧ (x3 + x1 + x2) % p = m ^ 2 % p ∧ (y3 + y1 + m * x3) % p = m * x1 % p

/-- `Words(r)` of R45, with NW and NK of R6: 1 for PARAMS, CMD, STATUS, OPFLAGS and RFLAGS, `ceil(KW/32)` for K, and
`ceil(W/32)` for every other register. -/
def wordCount (pr : Params) (r : Reg) : Nat :=
  if r = .params ∨ r = .cmd ∨ r = .status ∨ r = .opflags ∨ r = .rflags then 1
  else if r = .operand .k then (pr.kw + 31) / 32
  else (pr.w + 31) / 32

/-- `x[NAME]` as the host reads it, one field of the state for each of the 27 registers of R16 (R17 to R28). -/
def registerValue (s : State) : Reg → Nat
  | .params => s.params.w + 2 ^ 16 * s.params.kw
  | .cmd => 0
  | .status =>
    (if s.status.busy then 1 else 0) + (if s.status.done then 2 else 0) + 16 * s.status.err.toNat +
      (if s.curve.valid then 2 ^ 8 else 0) + (if s.status.dropped then 2 ^ 9 else 0)
  | .opflags => (if s.ops.aInf then 1 else 0) + (if s.ops.bInf then 2 else 0)
  | .operand .aX => s.ops.aX
  | .operand .aY => s.ops.aY
  | .operand .bX => s.ops.bX
  | .operand .bY => s.ops.bY
  | .operand .k => s.ops.k
  | .operand .invP => s.ops.invP
  | .operand .invV => s.ops.invV
  | .operand .cfgA => s.ops.cfgA
  | .operand .cfgB => s.ops.cfgB
  | .operand .cfgP => s.ops.cfgP
  | .operand .cfgN => s.ops.cfgN
  | .operand .cfgGx => s.ops.cfgGx
  | .operand .cfgGy => s.ops.cfgGy
  | .curA => s.curve.a
  | .curB => s.curve.b
  | .curP => s.curve.p
  | .curN => s.curve.n
  | .curGx => s.curve.gx
  | .curGy => s.curve.gy
  | .rX => s.result.x
  | .rY => s.result.y
  | .rflags => if s.result.inf then 1 else 0
  | .rInv => s.result.inv

/-- The data of a read of word `j` of `r` (R45). -/
def readData (s : State) (r : Reg) (j : Nat) : Word :=
  if r ≠ .cmd ∧ j < wordCount s.params r then BitVec.ofNat 32 (registerValue s r / 2 ^ (32 * j)) else 0

/-- The coordinates of a point are in `[0, P)` (R11, R12); on the curve or not. -/
def Reduced (c : FieldCurve) : Point → Prop
  | .inf => True
  | .aff x y => x < c.p ∧ y < c.p

/-- `add^(k)(pt)` of R98: k-fold repeated addition from INF. -/
def repeatedAdd (c : FieldCurve) (pt : Point) : Nat → Except ErrorKind Point
  | 0 => .ok .inf
  | k + 1 =>
    match repeatedAdd c pt k with
    | .ok acc => pointAdd c acc pt
    | .error e => .error e

/-- The point commands. -/
def IsPointCommand (i : Instr) : Prop := i = .pdbl ∨ i = .padd ∨ i = .pmul

/-- The register that a host write can change is none of these: PARAMS, CUR_*, R_X, R_Y, RFLAGS, R_INV (R46). -/
def IsReadOnly (r : Reg) : Prop :=
  r = .params ∨ r = .curA ∨ r = .curB ∨ r = .curP ∨ r = .curN ∨ r = .curGx ∨ r = .curGy ∨
  r = .rX ∨ r = .rY ∨ r = .rflags ∨ r = .rInv

/-- A script statement that makes no bus access. -/
def IsHostOnly : Stmt → Prop
  | .swImm _ _ | .swTmp _ _ | .lw _ _ => False
  | .andi _ _ _ | .addi _ _ _ | .bnez _ _ | .beqz _ _ | .stop => True

end Sys2Proof.Machine.Claim

open Sys2Proof Sys2Proof.Machine Sys2Proof.Machine.Claim

/-! ## Encoding -/

/-- R60, R62: the five words of the opcode map, written out, and neighbours of theirs that are illegal. -/
def Obligations.OpcodeMapWordsDecode : Prop :=
  decodeWord 0x00000001#32 = .ok .modinv ∧ decodeWord 0x00000002#32 = .ok .curveLoad ∧
  decodeWord 0x00000003#32 = .ok .pdbl ∧ decodeWord 0x00000004#32 = .ok .padd ∧
  decodeWord 0x00000005#32 = .ok .pmul ∧
  decodeWord 0x00000000#32 = .error .unassignedOpcode ∧ decodeWord 0x00000006#32 = .error .unassignedOpcode ∧
  decodeWord 0x0000000F#32 = .error .unassignedOpcode ∧ decodeWord 0x00000011#32 = .error .reservedBits ∧
  decodeWord 0x80000001#32 = .error .reservedBits ∧
  decodeTableWord 32 0x00000004 = some .padd ∧ decodeTableWord 32 0x00000006 = none

/-- R61: `Decode` on every word, by its two fields. A word with a nonzero bit in 31:4, or with OPCODE 0 or above 5,
is ILLEGAL; each of the five commands has exactly its one word. -/
def Obligations.DecodeIsTotalAndExact : Prop :=
  ∀ w : Word,
    (busyOp w = .illegal ↔
      w.extractLsb' 4 28 ≠ 0 ∨ w.extractLsb' 0 4 = 0 ∨ 5 < (w.extractLsb' 0 4).toNat) ∧
    (busyOp w = .command .modinv ↔ w.extractLsb' 4 28 = 0 ∧ w.extractLsb' 0 4 = 1) ∧
    (busyOp w = .command .curveLoad ↔ w.extractLsb' 4 28 = 0 ∧ w.extractLsb' 0 4 = 2) ∧
    (busyOp w = .command .pdbl ↔ w.extractLsb' 4 28 = 0 ∧ w.extractLsb' 0 4 = 3) ∧
    (busyOp w = .command .padd ↔ w.extractLsb' 4 28 = 0 ∧ w.extractLsb' 0 4 = 4) ∧
    (busyOp w = .command .pmul ↔ w.extractLsb' 4 28 = 0 ∧ w.extractLsb' 0 4 = 5) ∧
    busyOp w ≠ .empty

/-- R60, R65: decoding the bytes of a well-formed command, with anything after them, gives the command back; and a
list of bytes decodes to a command only if it begins with that command's bytes. -/
def Obligations.DecodeAndEncodeAgree : Prop :=
  (∀ (i : Instr) (rest : List Byte), i.wf = true → decodeBytes (encodeBytes i ++ rest) = .ok (i, rest)) ∧
  (∀ (bs : List Byte) (i : Instr) (rest : List Byte),
    decodeBytes bs = .ok (i, rest) → bs = encodeBytes i ++ rest)

/-! ## Reset and the invariant -/

/-- R36, R118: a reset turn, whatever is in flight. The host's script, the turns to come and the record stand
outside the block (log entry 12). -/
def Obligations.ResetTurnClearsTheBlock : Prop :=
  ∀ (s : State) (rest : List Turn), s.turns = .reset :: rest →
    ∃ t, step s = .next t ∧
      (∀ r : Reg, t.readReg r = if r = .params then s.params.w + 0x10000 * s.params.kw else 0) ∧
      t.latch = .empty ∧ t.status.busy = false ∧ t.status.done = false ∧ t.status.err = 0 ∧
      t.curve.valid = false ∧ t.ops.ptA = .aff 0 0 ∧ t.ops.ptB = .aff 0 0 ∧
      t.params = s.params ∧ t.script = s.script ∧ t.turns = rest ∧ t.trace = s.trace

/-- What `State.reset` reads. Its parameters W = KW = 16, and so the value of PARAMS, are the model's choice
(log entry 2); every other value is R36's. -/
def Obligations.ResetStateReadsZero : Prop :=
  (∀ r : Reg, State.reset.readReg r = if r = .params then 0x00100010 else 0) ∧
  State.reset.latch = .empty ∧ State.reset.status.busy = false

/-- The invariant holds after reset, in every build that R6 allows. -/
def Obligations.InvariantHoldsAtReset : Prop :=
  (∀ pr : Params, pr.wf = true → (State.init pr).Inv) ∧ State.reset.Inv

/-- R19, R26, R38 and what surrounds them: every step, of whichever agent, keeps the invariant. -/
def Obligations.StepKeepsInvariant : Prop :=
  ∀ s t : State, s.Inv → step s = .next t → t.Inv

/-! ## Bus accesses -/

/-- R16: the register map, all 27 rows. Every register is found at its index, and 0x1B and above are reserved. -/
def Obligations.RegisterMapIsExact : Prop :=
  (∀ (n : Nat) (r : Reg), Reg.ofIndex n = some r ↔ r.index = n) ∧ (∀ n, 0x1B ≤ n → Reg.ofIndex n = none) ∧
  Reg.index .params = 0x00 ∧ Reg.index .cmd = 0x01 ∧ Reg.index .status = 0x02 ∧ Reg.index .opflags = 0x03 ∧
  Reg.index (.operand .aX) = 0x04 ∧ Reg.index (.operand .aY) = 0x05 ∧ Reg.index (.operand .bX) = 0x06 ∧
  Reg.index (.operand .bY) = 0x07 ∧ Reg.index (.operand .k) = 0x08 ∧ Reg.index (.operand .invP) = 0x09 ∧
  Reg.index (.operand .invV) = 0x0A ∧ Reg.index (.operand .cfgA) = 0x0B ∧ Reg.index (.operand .cfgB) = 0x0C ∧
  Reg.index (.operand .cfgP) = 0x0D ∧ Reg.index (.operand .cfgN) = 0x0E ∧ Reg.index (.operand .cfgGx) = 0x0F ∧
  Reg.index (.operand .cfgGy) = 0x10 ∧ Reg.index .curA = 0x11 ∧ Reg.index .curB = 0x12 ∧ Reg.index .curP = 0x13 ∧
  Reg.index .curN = 0x14 ∧ Reg.index .curGx = 0x15 ∧ Reg.index .curGy = 0x16 ∧ Reg.index .rX = 0x17 ∧
  Reg.index .rY = 0x18 ∧ Reg.index .rflags = 0x19 ∧ Reg.index .rInv = 0x1A

/-- R42: a misaligned access is answered with err = 1 and data 0, and no register changes. That this is a next state
whose record holds err = 1, where R42 speaks of a fault of the host's access, is the model's reading (log entry 6). -/
def Obligations.MisalignedAccessHasNoEffect : Prop :=
  ∀ (s : State) (rest : List Turn) (addr : Nat) (d : Word),
    s.params.base ≤ addr → addr < s.params.base + 0x2000 → addr % 4 ≠ 0 →
    (s.turns = .host (.read addr 4) :: rest →
      step s = .next (logged s rest (.read addr 4) ⟨some 0, true⟩)) ∧
    (s.turns = .host (.write addr 4 d) :: rest →
      step s = .next (logged s rest (.write addr 4 d) ⟨none, true⟩))

/-- R43: an access narrower than 32 bits is refused. That every other size but 4 bytes is refused too (0, and those above
4), and before the address is looked at, is the model's choice (log entry 17). -/
def Obligations.OtherWidthsAreRefused : Prop :=
  ∀ (s : State) (rest : List Turn) (addr size : Nat) (d : Word), size ≠ 4 →
    (s.turns = .host (.read addr size) :: rest → step s = .refused .accessWidth) ∧
    (s.turns = .host (.write addr size d) :: rest → step s = .refused .accessWidth)

/-- The model's choice for an address outside the window (log entry 10): R41 has no such access. -/
def Obligations.OutsideTheWindowFaults : Prop :=
  ∀ (s : State) (rest : List Turn) (addr : Nat) (d : Word),
    (addr < s.params.base ∨ s.params.base + 0x2000 ≤ addr) →
    (s.turns = .host (.read addr 4) :: rest → step s = .fault .outsideWindow) ∧
    (s.turns = .host (.write addr 4 d) :: rest → step s = .fault .outsideWindow)

/-- R45, R48: what an aligned read returns, for every word of every register, field by field of the state, and of the
reserved indices, and that it changes nothing but the record (R51); and that a read right after a command's completion
returns the words of the state which that completion leaves. -/
def Obligations.AlignedReadReturnsTheWord : Prop :=
  ∀ (s : State) (rest : List Turn) (j : Nat), s.params.wf = true → j < 64 →
    (∀ r : Reg, s.turns = .host (.read (wordAddr s.params r.index j) 4) :: rest →
      step s = .next (logged s rest (.read (wordAddr s.params r.index j) 4)
        ⟨some (readData s r j), false⟩)) ∧
    (∀ n, 0x1B ≤ n → n ≤ 0x1F → s.turns = .host (.read (wordAddr s.params n j) 4) :: rest →
      step s = .next (logged s rest (.read (wordAddr s.params n j) 4) ⟨some 0, false⟩)) ∧
    (∀ (r : Reg) (i : Instr), s.status.busy = true → s.latch.op = .command i →
      s.turns = .engine :: .host (.read (wordAddr s.params r.index j) 4) :: rest →
      ∃ t, exec i { s with turns := .host (.read (wordAddr s.params r.index j) 4) :: rest } = .next t ∧
        Sys2Proof.core.run 2 s = .next
          (logged t rest (.read (wordAddr s.params r.index j) 4) ⟨some (readData t r j), false⟩))

/-- R46, R47, R49, bit by bit: an aligned write to word `j` of an operand register changes the bits 32j to 32j + 31
that lie below the register's width to those of the data, clears none and sets none at or above the width, and
changes no other register. A word beyond the register's words changes nothing (R48). -/
def Obligations.OperandWriteReplacesTheWord : Prop :=
  ∀ (s : State) (rest : List Turn) (r : OpReg) (j : Nat) (d : Word),
    s.params.wf = true → s.ops.InRange s.params → j < 64 →
    s.turns = .host (.write (wordAddr s.params r.index j) 4 d) :: rest →
    ∃ o : Operands,
      step s = .next { logged s rest (.write (wordAddr s.params r.index j) 4 d) ⟨none, false⟩ with ops := o } ∧
      (∀ i, (o.get r).testBit i =
        if 32 * j ≤ i ∧ i < 32 * j + 32 then decide (i < r.width s.params) && d.getLsbD (i - 32 * j)
        else (s.ops.get r).testBit i) ∧
      (∀ r', r' ≠ r → o.get r' = s.ops.get r') ∧ o.aInf = s.ops.aInf ∧ o.bInf = s.ops.bInf

/-- R45, R46, R55: a read right after a write of the same word of an operand register returns what was written,
less the bits at or above the register's width. -/
def Obligations.ReadAfterWriteReturnsTheData : Prop :=
  ∀ (s : State) (rest : List Turn) (r : OpReg) (j : Nat) (d : Word),
    s.params.wf = true → s.ops.InRange s.params → j < 64 →
    s.turns = .host (.write (wordAddr s.params r.index j) 4 d) ::
      .host (.read (wordAddr s.params r.index j) 4) :: rest →
    ∃ (t : State) (v : Word), Sys2Proof.core.run 2 s = .next t ∧
      t.trace = s.trace ++ [⟨.write (wordAddr s.params r.index j) 4 d, ⟨none, false⟩⟩,
        ⟨.read (wordAddr s.params r.index j) 4, ⟨some v, false⟩⟩] ∧
      ∀ i, i < 32 → v.getLsbD i = (decide (32 * j + i < r.width s.params) && d.getLsbD i)

/-- R46, last line, with R18, R32 and R48: writes to read-only registers, to reserved indices, and to the words 1 and
up of CMD, STATUS and OPFLAGS are ignored without an error response. -/
def Obligations.IgnoredWritesChangeNothing : Prop :=
  ∀ (s : State) (rest : List Turn) (n j : Nat) (d : Word), s.params.wf = true → j < 64 →
    ((∃ r, IsReadOnly r ∧ n = r.index) ∨ (0x1B ≤ n ∧ n ≤ 0x1F) ∨ ((n = 0x01 ∨ n = 0x02 ∨ n = 0x03) ∧ 1 ≤ j)) →
    s.turns = .host (.write (wordAddr s.params n j) 4 d) :: rest →
    step s = .next (logged s rest (.write (wordAddr s.params n j) 4 d) ⟨none, false⟩)

/-- R31: a CMD write to an idle block is accepted in one step, and nothing but the latch, BUSY, DONE and ERR
changes. -/
def Obligations.CmdWriteIsAcceptedWhenIdle : Prop :=
  ∀ (s : State) (rest : List Turn) (w : Word), s.params.wf = true → s.status.busy = false →
    s.turns = .host (.write (s.params.base + 0x100) 4 w) :: rest →
    step s = .next
      { logged s rest (.write (s.params.base + 0x100) 4 w) ⟨none, false⟩ with
        latch := ⟨busyOp w, ⟨s.ops, s.curve.valid, s.curve.a, s.curve.b, s.curve.p⟩⟩,
        status := ⟨true, false, s.status.dropped, 0⟩ }

/-- R32: a CMD write to a busy block is dropped; its only effect is DROPPED. A write to CMD word 1 or above has no
effect, busy or not. -/
def Obligations.CmdWriteIsDroppedWhenBusy : Prop :=
  ∀ (s : State) (rest : List Turn) (w : Word), s.params.wf = true →
    (s.status.busy = true → s.turns = .host (.write (s.params.base + 0x100) 4 w) :: rest →
      step s = .next
        { logged s rest (.write (s.params.base + 0x100) 4 w) ⟨none, false⟩ with
          status := ⟨true, s.status.done, true, s.status.err⟩ }) ∧
    (∀ j, 1 ≤ j → j < 64 → s.turns = .host (.write (wordAddr s.params 0x01 j) 4 w) :: rest →
      step s = .next (logged s rest (.write (wordAddr s.params 0x01 j) 4 w) ⟨none, false⟩))

/-- R35: bit 9 of a STATUS write clears DROPPED; nothing else of the block changes. -/
def Obligations.StatusWriteClearsDropped : Prop :=
  ∀ (s : State) (rest : List Turn) (d : Word), s.params.wf = true →
    s.turns = .host (.write (s.params.base + 0x200) 4 d) :: rest →
    step s = .next
      { logged s rest (.write (s.params.base + 0x200) 4 d) ⟨none, false⟩ with
        status := ⟨s.status.busy, s.status.done, if d.getLsbD 9 then false else s.status.dropped, s.status.err⟩ }

/-- R20: OPFLAGS takes bits 0 and 1 of what is written, and a read right after it returns those two bits. -/
def Obligations.OpflagsHoldsItsTwoBits : Prop :=
  ∀ (s : State) (rest : List Turn) (d : Word), s.params.wf = true →
    s.turns = .host (.write (s.params.base + 0x300) 4 d) :: .host (.read (s.params.base + 0x300) 4) :: rest →
    ∃ t, Sys2Proof.core.run 2 s = .next t ∧ t.ops = { s.ops with aInf := d.getLsbD 0, bInf := d.getLsbD 1 } ∧
      t.trace = s.trace ++ [⟨.write (s.params.base + 0x300) 4 d, ⟨none, false⟩⟩,
        ⟨.read (s.params.base + 0x300) 4, ⟨some (d &&& 3), false⟩⟩] ∧
      t.curve = s.curve ∧ t.result = s.result ∧ t.status = s.status ∧ t.latch = s.latch

/-- R19: every bit of the STATUS word. -/
def Obligations.StatusWordBits : Prop :=
  ∀ (s : State) (i : Nat),
    (s.readReg .status).testBit i =
      if i = 0 then s.status.busy
      else if i = 1 then s.status.done
      else if 4 ≤ i ∧ i ≤ 7 then s.status.err.getLsbD (i - 4)
      else if i = 8 then s.curve.valid
      else if i = 9 then s.status.dropped
      else false

/-- R17: PARAMS reads KW and W, and no step of any agent changes it. -/
def Obligations.ParamsNeverChange : Prop :=
  (∀ s : State, s.params.wf = true →
    s.readReg .params % 2 ^ 16 = s.params.w ∧ s.readReg .params / 2 ^ 16 = s.params.kw) ∧
  (∀ s t : State, step s = .next t → t.params = s.params)

/-- R16: the host, by an access or by a script statement, on a prescribed turn or on the default one (log entry 4), writes
none of CUR_*, R_X, R_Y, RFLAGS and R_INV; and BUSY, DONE and ERR only by an accept. -/
def Obligations.HostNeverWritesEngineRegisters : Prop :=
  ∀ s t : State, step s = .next t →
    (∃ rest, (∃ req, s.turns = .host req :: rest) ∨ s.turns = .script :: rest) ∨
      (s.turns = [] ∧ s.status.busy = false) →
    t.curve = s.curve ∧ t.result = s.result ∧
    ((t.status.busy = s.status.busy ∧ t.status.done = s.status.done ∧ t.status.err = s.status.err ∧
        t.latch = s.latch) ∨
      (s.status.busy = false ∧ t.status = ⟨true, false, s.status.dropped, 0⟩ ∧
        t.latch.snapshot = ⟨s.ops, s.curve.valid, s.curve.a, s.curve.b, s.curve.p⟩))

/-! ## The engine -/

/-- R33: with a command in the latch, the engine's turn (and the step with no turn prescribed, log entry 4) is `exec` of that
command. And what the decoder reads from a word is what runs when that word has been accepted by an idle block: that
`withFetchWord` stands for that accept is the model's reading (log entry 3). -/
def Obligations.StepRunsTheLatchedCommand : Prop :=
  (∀ (s : State) (i : Instr) (rest : List Turn), s.status.busy = true → s.latch.op = .command i →
    (s.turns = .engine :: rest → step s = exec i { s with turns := rest }) ∧
    (s.turns = [] → step s = exec i s)) ∧
  (∀ (s : State) (nbits w : Nat) (i : Instr), s.status.busy = false → decodeTableWord nbits w = some i →
    step (s.withFetchWord nbits w) =
      exec i { s with
        latch := ⟨.command i, ⟨s.ops, s.curve.valid, s.curve.a, s.curve.b, s.curve.p⟩⟩,
        status := ⟨true, false, s.status.dropped, 0⟩ })

/-- R62, R104: a word that is none of the five is accepted and completes with IllegalCommand, code 7; only STATUS
changes. -/
def Obligations.IllegalWordCompletesWithCode7 : Prop :=
  ∀ (s : State) (rest : List Turn) (w : Word), s.params.wf = true → s.status.busy = false →
    (w.toNat = 0 ∨ 5 < w.toNat) →
    s.turns = .host (.write (s.params.base + 0x100) 4 w) :: .engine :: rest →
    Sys2Proof.core.run 2 s = .next
      (endsWithError (logged s rest (.write (s.params.base + 0x100) 4 w) ⟨none, false⟩) 7)

/-- R133: while BUSY = 0 no register changes without a host access or a reset: not on the engine's turn, and not on the
script's, prescribed or default, whether the statement at pc makes no access or none stands there (log entries 4, 7 and
11 say what the model does on such turns). -/
def Obligations.QuiescentBlockIsStill : Prop :=
  ∀ (s : State), s.status.busy = false →
    (∀ rest, s.turns = .engine :: rest → step s = .next { s with turns := rest }) ∧
    (∀ rest, s.turns = .script :: rest ∨ s.turns = [] ∧ rest = [] →
      (∀ st, s.script.prog[s.script.pc]? = some st → IsHostOnly st →
        ∃ t, step s = .next t ∧ SameRegisters s t ∧ t.turns = rest ∧ t.trace = s.trace) ∧
      (s.script.prog[s.script.pc]? = none → step s = .next { s with turns := rest }))

/-- R129, R131, R108: an accepted command always completes: from a state that meets the invariant, the engine's
turn ends with BUSY = 0, DONE = 1 and one of the codes 0 to 7. -/
def Obligations.AcceptedCommandAlwaysCompletes : Prop :=
  ∀ (s : State) (rest : List Turn), s.Inv → s.status.busy = true → s.turns = .engine :: rest →
    ∃ t, step s = .next t ∧ t.status.busy = false ∧ t.status.done = true ∧ t.status.err.toNat ≤ 7 ∧
      t.latch = .empty ∧ t.turns = rest

/-- R16, R63, R108: the frame of every command. A completion changes no operand register, no parameter, not DROPPED,
and nothing outside the block; only CURVE_LOAD writes the curve, only MODINV R_INV, only a point command the point
result. -/
def Obligations.CommandFrame : Prop :=
  ∀ (i : Instr) (s : State), ∃ t, exec i s = .next t ∧
    t.params = s.params ∧ t.ops = s.ops ∧ t.script = s.script ∧ t.turns = s.turns ∧ t.trace = s.trace ∧
    t.status.dropped = s.status.dropped ∧ t.status.busy = false ∧ t.status.done = true ∧
    (i ≠ .curveLoad → t.curve = s.curve) ∧
    (i ≠ .modinv → t.result.inv = s.result.inv) ∧
    (i = .modinv ∨ i = .curveLoad →
      t.result.inf = s.result.inf ∧ t.result.x = s.result.x ∧ t.result.y = s.result.y)

/-- R108, R109: a completion with ERR ≠ 0 writes no register but STATUS.BUSY, DONE and ERR. -/
def Obligations.ErrorCompletionIsPrecise : Prop :=
  ∀ (i : Instr) (s t : State), exec i s = .next t → t.status.err ≠ 0 → t = endsWithError s t.status.err

/-- R22, R24, R25, R63: a command's completion depends on no latched register but those that R63 lists for it; a
point operand with its INF flag set depends on no coordinate register. `q` is another snapshot that agrees there. -/
def Obligations.CommandReadsOnlyItsOperands : Prop :=
  ∀ (s : State) (q : Snapshot),
    let p := s.latch.snapshot
    let s' : State := { s with latch := ⟨s.latch.op, q⟩ }
    let sameCurve := q.curveValid = p.curveValid ∧ q.curA = p.curA ∧ q.curB = p.curB ∧ q.curP = p.curP
    let sameA := q.ops.aInf = p.ops.aInf ∧ (p.ops.aInf = false → q.ops.aX = p.ops.aX ∧ q.ops.aY = p.ops.aY)
    let sameB := q.ops.bInf = p.ops.bInf ∧ (p.ops.bInf = false → q.ops.bX = p.ops.bX ∧ q.ops.bY = p.ops.bY)
    (q.ops.invP = p.ops.invP → q.ops.invV = p.ops.invV → exec .modinv s' = exec .modinv s) ∧
    (q.ops.cfgA = p.ops.cfgA → q.ops.cfgB = p.ops.cfgB → q.ops.cfgP = p.ops.cfgP → q.ops.cfgN = p.ops.cfgN →
      q.ops.cfgGx = p.ops.cfgGx → q.ops.cfgGy = p.ops.cfgGy → exec .curveLoad s' = exec .curveLoad s) ∧
    (sameCurve → sameA → exec .pdbl s' = exec .pdbl s) ∧
    (sameCurve → sameA → sameB → exec .padd s' = exec .padd s) ∧
    (sameCurve → sameA → q.ops.k = p.ops.k → exec .pmul s' = exec .pmul s)

/-- R33, R34, R58: whatever transactions the host makes while a command is in flight, its completion gives the same
results, the same curve and the same ERR as if it had come at once. -/
def Obligations.HostAccessesDoNotAffectTheCommandInFlight : Prop :=
  ∀ (s : State) (reqs : List BusRequest) (rest : List Turn), s.status.busy = true →
    (∀ req ∈ reqs, req.wf s.params = true) →
    s.turns = reqs.map Turn.host ++ .engine :: rest →
    ∃ t u, Sys2Proof.core.run (reqs.length + 1) s = .next t ∧ step { s with turns := .engine :: rest } = .next u ∧
      t.result = u.result ∧ t.curve = u.curve ∧ t.status.err = u.status.err ∧ t.status.busy = u.status.busy ∧
      t.status.done = u.status.done ∧ t.latch = u.latch ∧ t.turns = u.turns

/-- R126: after an accepted CMD write, a STATUS read sees BUSY = 1 with DONE = 0 and ERR = 0, or, once the engine has
moved, the completion of that command: never the DONE or ERR of an earlier one. -/
def Obligations.StatusReadAfterCmdIsOfThatCommand : Prop :=
  ∀ (s : State) (rest : List Turn) (w : Word), s.params.wf = true → s.status.busy = false →
    (s.turns = .host (.write (s.params.base + 0x100) 4 w) :: .host (.read (s.params.base + 0x200) 4) :: rest →
      ∃ (t : State) (v : Word), Sys2Proof.core.run 2 s = .next t ∧
        t.trace.getLast? = some ⟨.read (s.params.base + 0x200) 4, ⟨some v, false⟩⟩ ∧
        v.getLsbD 0 = true ∧ v.getLsbD 1 = false ∧ v.extractLsb' 4 4 = 0) ∧
    (s.turns = .host (.write (s.params.base + 0x100) 4 w) :: .engine ::
        .host (.read (s.params.base + 0x200) 4) :: rest →
      ∃ (t u : State) (v : Word), Sys2Proof.core.run 3 s = .next t ∧ Sys2Proof.core.run 2 s = .next u ∧
        t.trace.getLast? = some ⟨.read (s.params.base + 0x200) 4, ⟨some v, false⟩⟩ ∧
        v.getLsbD 0 = false ∧ v.getLsbD 1 = true ∧ v.extractLsb' 4 4 = u.status.err)

/-! ## MODINV -/

/-- R73: the contract of the inverse. With p ≥ 2 and gcd(value mod p, p) = 1 it is the unique inverse in [0, p).
R71: otherwise, and for p < 2, DivisionUndefined. -/
def Obligations.ModInvMeetsItsContract : Prop :=
  ∀ (p : Nat) (value : Int),
    (2 ≤ p → Int.gcd (value % p) p = 1 →
      ∃ v, modInv p value = .ok v ∧ v < p ∧ value * v % p = 1 ∧
        ∀ v', v' < p → value * (v' : Int) % p = 1 → v' = v) ∧
    (p < 2 ∨ Int.gcd (value % p) p ≠ 1 → modInv p value = .error .divisionUndefined)

/-- R76: the loop ends within 2·bitlen(p) + 1 passes, and no coefficient exceeds p in magnitude. -/
def Obligations.EuclidLoopIsBounded : Prop :=
  ∀ (p : Nat) (value : Int), 2 ≤ p →
    (euclidRun (2 * Nat.size p + 1) (euclidStart p value)).r1 = 0 ∧
    ∀ n, |(euclidRun n (euclidStart p value)).t0| ≤ p ∧ |(euclidRun n (euclidStart p value)).t1| ≤ p

/-- R72, R75: MODINV succeeds for every p ≥ 2, prime or not, and every coprime value, reduced or not: R_INV gets the
inverse, ERR 0, and nothing else changes. -/
def Obligations.ModinvWritesTheInverse : Prop :=
  ∀ (s : State) (p v : Nat), p = s.latch.snapshot.ops.invP → v = s.latch.snapshot.ops.invV →
    2 ≤ p → Nat.gcd (v % p) p = 1 →
    ∃ r, r < p ∧ v * r % p = 1 ∧ exec .modinv s = .next (endsWithResult s { s.result with inv := r })

/-- R72: otherwise MODINV ends with DivisionUndefined, code 1, and R_INV keeps its value. -/
def Obligations.ModinvReportsDivisionUndefined : Prop :=
  ∀ (s : State) (p v : Nat), p = s.latch.snapshot.ops.invP → v = s.latch.snapshot.ops.invV →
    p < 2 ∨ Nat.gcd (v % p) p ≠ 1 → exec .modinv s = .next (endsWithError s 1)

/-! ## CURVE_LOAD -/

/-- R77, R80, R81, R83: CURVE_LOAD of a non-singular curve with G on it loads it, a and b reduced, N unchecked, in one
step; nothing else changes. -/
def Obligations.CurveLoadLoadsTheCurve : Prop :=
  ∀ (s : State) (a b p n gx gy : Nat), s.latch.snapshot.ops.cfgP = p → s.latch.snapshot.ops.cfgA % p = a →
    s.latch.snapshot.ops.cfgB % p = b → s.latch.snapshot.ops.cfgN = n → s.latch.snapshot.ops.cfgGx = gx →
    s.latch.snapshot.ops.cfgGy = gy →
    3 ≤ p → (4 * a ^ 3 + 27 * b ^ 2) % p ≠ 0 → LiesOn ⟨a, b, p⟩ gx gy →
    exec .curveLoad s = .next
      { s with curve := ⟨true, a, b, p, n, gx, gy⟩, status := completedStatus s 0, latch := .empty }

/-- R80, R82, R106: otherwise CURVE_LOAD ends with SingularCurve (code 2), which wins, or PointNotOnCurve (code 3), and
the loaded curve and the results stay. -/
def Obligations.CurveLoadFailureKeepsTheCurve : Prop :=
  ∀ (s : State) (a b p gx gy : Nat), s.latch.snapshot.ops.cfgP = p → s.latch.snapshot.ops.cfgA % p = a →
    s.latch.snapshot.ops.cfgB % p = b → s.latch.snapshot.ops.cfgGx = gx → s.latch.snapshot.ops.cfgGy = gy →
    (p < 3 ∨ (4 * a ^ 3 + 27 * b ^ 2) % p = 0 → exec .curveLoad s = .next (endsWithError s 2)) ∧
    (3 ≤ p → (4 * a ^ 3 + 27 * b ^ 2) % p ≠ 0 → ¬LiesOn ⟨a, b, p⟩ gx gy →
      exec .curveLoad s = .next (endsWithError s 3))

/-- R39: CURVE_VALID is cleared only by reset, and a step that reports an error leaves it and CUR_* as they were. -/
def Obligations.CurveValidIsClearedOnlyByReset : Prop :=
  ∀ s t : State, step s = .next t → (∀ rest, s.turns ≠ .reset :: rest) →
    (s.curve.valid = true → t.curve.valid = true) ∧
    (s.status.busy = true → t.status.busy = false → t.status.err ≠ 0 → t.curve = s.curve)

/-- R26: only a successful CURVE_LOAD and a reset change the loaded curve, over all steps of all agents. -/
def Obligations.OnlyCurveLoadAndResetChangeTheCurve : Prop :=
  ∀ s t : State, step s = .next t → t.curve ≠ s.curve →
    (∃ rest, s.turns = .reset :: rest) ∨
    (s.status.busy = true ∧ s.latch.op = .command .curveLoad ∧ t.status.busy = false ∧ t.status.err = 0 ∧
      ((∃ rest, s.turns = .engine :: rest) ∨ s.turns = []))

/-! ## The point commands -/

/-- R103: without a curve in the snapshot, every point command ends with NoCurve, code 6, whatever its operands. -/
def Obligations.PointCommandsNeedACurve : Prop :=
  ∀ (s : State) (i : Instr), IsPointCommand i → s.latch.snapshot.curveValid = false →
    exec i s = .next (endsWithError s 6)

/-- R86, R106: an operand that is affine and out of range or off the curve ends the command with PointNotOnCurve,
code 3: A of all three, B of PADD (INF as A does not skip the check of B), before the scalar of PMUL is looked at. -/
def Obligations.OffCurveOperandsAreRejected : Prop :=
  ∀ (s : State) (i : Instr), IsPointCommand i → s.latch.snapshot.curveValid = true →
    ¬Passes s.latch.snapshot.curve s.latch.snapshot.ops.ptA ∨
      (i = .padd ∧ ¬Passes s.latch.snapshot.curve s.latch.snapshot.ops.ptB) →
    exec i s = .next (endsWithError s 3)

/-- R84, R87: PDBL of INF, and of a curve point with y = 0, gives INF. -/
def Obligations.PdblOfInfinityOrVerticalTangent : Prop :=
  ∀ s : State, s.latch.snapshot.curveValid = true →
    (s.latch.snapshot.ops.ptA = .inf ∨
      ∃ x, s.latch.snapshot.ops.ptA = .aff x 0 ∧ LiesOn s.latch.snapshot.curve x 0) →
    exec .pdbl s = .next (endsWithPoint s .inf)

/-- R84, R85: PDBL of a curve point with y ≠ 0, where 2y has an inverse u mod P: the tangent construction. -/
def Obligations.PdblTangentConstruction : Prop :=
  ∀ (s : State) (c : FieldCurve) (x y u : Nat), c = s.latch.snapshot.curve → s.latch.snapshot.curveValid = true →
    s.latch.snapshot.ops.ptA = .aff x y → LiesOn c x y → y ≠ 0 → 2 * y * u % c.p = 1 →
    ∃ x' y', IsChordPoint c.p ((3 * x ^ 2 + c.a) * u % c.p) x y x x' y' ∧
      exec .pdbl s = .next (endsWithPoint s (.aff x' y'))

/-- R90, R91: PADD with INF as one operand gives the other; both INF give INF. -/
def Obligations.PaddIdentityLaws : Prop :=
  ∀ (s : State) (c : FieldCurve) (pt : Point), c = s.latch.snapshot.curve → s.latch.snapshot.curveValid = true →
    Passes c pt →
    (s.latch.snapshot.ops.ptA = .inf ∧ s.latch.snapshot.ops.ptB = pt ∨
      s.latch.snapshot.ops.ptA = pt ∧ s.latch.snapshot.ops.ptB = .inf) →
    exec .padd s = .next (endsWithPoint s pt)

/-- R89: PADD of equal points is PDBL of that point, outcome for outcome. -/
def Obligations.PaddOfEqualPointsDoubles : Prop :=
  ∀ s : State, s.latch.snapshot.ops.ptA = s.latch.snapshot.ops.ptB → exec .padd s = exec .pdbl s

/-- R89: PADD of curve points with equal x and different y gives INF. -/
def Obligations.PaddOfInversePointsIsInfinity : Prop :=
  ∀ (s : State) (c : FieldCurve) (x y1 y2 : Nat), c = s.latch.snapshot.curve → s.latch.snapshot.curveValid = true →
    s.latch.snapshot.ops.ptA = .aff x y1 → s.latch.snapshot.ops.ptB = .aff x y2 →
    LiesOn c x y1 → LiesOn c x y2 → y1 ≠ y2 →
    exec .padd s = .next (endsWithPoint s .inf)

/-- R89, R90: PADD of curve points with different x, where x2 − x1 has an inverse u mod P: the secant
construction. -/
def Obligations.PaddSecantConstruction : Prop :=
  ∀ (s : State) (c : FieldCurve) (x1 y1 x2 y2 u : Nat), c = s.latch.snapshot.curve →
    s.latch.snapshot.curveValid = true →
    s.latch.snapshot.ops.ptA = .aff x1 y1 → s.latch.snapshot.ops.ptB = .aff x2 y2 →
    LiesOn c x1 y1 → LiesOn c x2 y2 → x1 ≠ x2 → (x2 + (c.p - x1)) * u % c.p = 1 →
    ∃ x3 y3, IsChordPoint c.p ((y2 + (c.p - y1)) * u % c.p) x1 y1 x2 x3 y3 ∧
      exec .padd s = .next (endsWithPoint s (.aff x3 y3))

/-- R74, R105: where the inverse that PDBL or PADD needs does not exist, the command ends with InvariantViolation,
code 5. -/
def Obligations.MissingInverseIsAnInvariantViolation : Prop :=
  ∀ (s : State) (c : FieldCurve) (x1 y1 x2 y2 : Nat), c = s.latch.snapshot.curve →
    s.latch.snapshot.curveValid = true → s.latch.snapshot.ops.ptA = .aff x1 y1 → LiesOn c x1 y1 →
    (y1 ≠ 0 → Nat.gcd (2 * y1) c.p ≠ 1 → exec .pdbl s = .next (endsWithError s 5)) ∧
    (s.latch.snapshot.ops.ptB = .aff x2 y2 → LiesOn c x2 y2 → x1 ≠ x2 → Nat.gcd (x2 + (c.p - x1)) c.p ≠ 1 →
      exec .padd s = .next (endsWithError s 5))

/-- R92: addition of curve points is commutative, for every P, also where it raises. -/
def Obligations.PointAdditionCommutes : Prop :=
  ∀ (c : FieldCurve) (p1 p2 : Point), Passes c p1 → Passes c p2 → pointAdd c p1 p2 = pointAdd c p2 p1

/-- R88, R93: for every P, prime or not, every affine result of doubling any point at all, and of adding points whose
coordinates are in range, has both coordinates in [0, P): no operand need lie on the curve, so the unchecked
intermediates of the ladder are covered (R97), and so is the ladder's own result. -/
def Obligations.PointResultsAreReduced : Prop :=
  ∀ (c : FieldCurve) (p1 p2 : Point) (x y : Nat),
    (pointDouble c p1 = .ok (.aff x y) → x < c.p ∧ y < c.p) ∧
    (Reduced c p1 → Reduced c p2 → pointAdd c p1 p2 = .ok (.aff x y) → x < c.p ∧ y < c.p) ∧
    (∀ k, Reduced c p1 → ladder c p1 k = .ok (.aff x y) → x < c.p ∧ y < c.p) ∧
    (Passes c p1 → Reduced c p1)

/-- R27, R88, R93, R105 (their general-knowledge parts): with a prime P ≥ 3, addition and the ladder on curve points
never raise, and their results are curve points. -/
def Obligations.PrimeModulusClosure : Prop :=
  ∀ (c : FieldCurve) (p1 p2 : Point), c.p.Prime → 3 ≤ c.p → Passes c p1 → Passes c p2 →
    (∃ r, pointDouble c p1 = .ok r ∧ Passes c r) ∧ (∃ r, pointAdd c p1 p2 = .ok r ∧ Passes c r) ∧
    ∀ k, ∃ r, ladder c p1 k = .ok r ∧ Passes c r

/-! ## PMUL -/

/-- R23, R95, R106: a scalar whose bit KW−1 is set ends PMUL with InvalidScalar, code 4, once the point has passed its
check. -/
def Obligations.PmulRejectsNegativeScalars : Prop :=
  ∀ s : State, s.latch.snapshot.curveValid = true →
    Passes s.latch.snapshot.curve s.latch.snapshot.ops.ptA →
    s.params.wf = true → s.latch.snapshot.ops.k < 2 ^ s.params.kw →
    2 ^ (s.params.kw - 1) ≤ s.latch.snapshot.ops.k →
    exec .pmul s = .next (endsWithError s 4)

/-- R95: k = 0 gives INF whatever A is (after its check), and k = 1 gives A unchanged. -/
def Obligations.PmulByZeroAndOne : Prop :=
  ∀ s : State, s.latch.snapshot.curveValid = true →
    Passes s.latch.snapshot.curve s.latch.snapshot.ops.ptA → s.params.wf = true →
    (s.latch.snapshot.ops.k = 0 → exec .pmul s = .next (endsWithPoint s .inf)) ∧
    (s.latch.snapshot.ops.k = 1 → exec .pmul s = .next (endsWithPoint s s.latch.snapshot.ops.ptA))

/-- R95, R97: on a checked point and a non-negative scalar, PMUL completes with the ladder's point, or, where a step of
the ladder raises, with InvariantViolation and no partial result. -/
def Obligations.PmulCompletesWithTheLadder : Prop :=
  ∀ s : State, s.latch.snapshot.curveValid = true →
    Passes s.latch.snapshot.curve s.latch.snapshot.ops.ptA → s.params.wf = true →
    s.latch.snapshot.ops.k < 2 ^ (s.params.kw - 1) →
    (∃ pt, ladder s.latch.snapshot.curve s.latch.snapshot.ops.ptA s.latch.snapshot.ops.k = .ok pt ∧
      exec .pmul s = .next (endsWithPoint s pt)) ∨
    (ladder s.latch.snapshot.curve s.latch.snapshot.ops.ptA s.latch.snapshot.ops.k = .error .invariantViolation ∧
      exec .pmul s = .next (endsWithError s 5))

/-- R94: the ladder is double-and-add over the binary digits of k, the accumulator the first operand of the add. -/
def Obligations.LadderFollowsTheBinaryDigits : Prop :=
  ∀ (c : FieldCurve) (pt : Point) (k : Nat),
    ladder c pt 0 = .ok .inf ∧ ladder c pt 1 = .ok pt ∧
    (1 ≤ k → ladder c pt (2 * k) = (ladder c pt k).bind (pointDouble c)) ∧
    (1 ≤ k → ladder c pt (2 * k + 1) =
      ((ladder c pt k).bind (pointDouble c)).bind fun acc => pointAdd c acc pt)

/-- R96: for k ≥ 1 the ladder is the run of a schedule of group operations that starts at the point and has exactly
bitlen(k) − 1 doublings and popcount(k) − 1 additions; for k ≤ 1 it makes none of either, and for k = 0 it answers INF.
The schedule, and so the counts, depend on k alone. -/
def Obligations.LadderStepCounts : Prop :=
  ∀ k : Nat,
    (∀ (c : FieldCurve) (pt : Point),
      (1 ≤ k → ladder c pt k = runOps c pt (ladderOps k (bitlen k - 1)) pt) ∧ (k = 0 → ladder c pt k = .ok .inf)) ∧
    (1 ≤ k → (ladderOps k (bitlen k - 1)).count .double = Nat.size k - 1 ∧
      (ladderOps k (bitlen k - 1)).count .addPoint = k.bits.count true - 1) ∧
    (k ≤ 1 → ladderOps k (bitlen k - 1) = [])

/-- R98: on a non-singular curve over a prime P ≥ 3, the ladder is k-fold repeated addition, and it is linear in the
scalar. (The spec rests this on general knowledge: the chord-tangent law is an abelian group.) -/
def Obligations.LadderIsRepeatedAddition : Prop :=
  ∀ (c : FieldCurve) (pt : Point), c.p.Prime → 3 ≤ c.p → discriminant c ≠ 0 → Passes c pt →
    (∀ k, ladder c pt k = repeatedAdd c pt k) ∧
    ∀ j k, ∃ pj pk, ladder c pt j = .ok pj ∧ ladder c pt k = .ok pk ∧
      ladder c pt (j + k) = pointAdd c pj pk

/-- R99 (general knowledge in the spec): on a non-singular curve over a prime P ≥ 3, with N·A = INF, the ladder on k and
the ladder on k mod N give the same point; the block itself never reduces k. -/
def Obligations.LadderIsPeriodic : Prop :=
  ∀ (c : FieldCurve) (pt : Point) (n k : Nat), c.p.Prime → 3 ≤ c.p → discriminant c ≠ 0 → Passes c pt → 1 ≤ n →
    ladder c pt n = .ok .inf → ladder c pt k = ladder c pt (k % n)

/-! ## The host script -/

/-- R69: what each statement of a host script does on the script's turn, and where pc goes. -/
def Obligations.ScriptStatementsDoWhatTheySay : Prop :=
  ∀ (s : State) (rest : List Turn) (st : Stmt), s.turns = .script :: rest →
    s.script.prog[s.script.pc]? = some st →
    let h := s.script
    let go (pc : Nat) (tmp : Scratch) : Host.Outcome State Fault Refusal :=
      .next { s with turns := rest, script := ⟨h.prog, pc, tmp⟩ }
    (∀ d q imm, st = .andi d q imm → step s = go (h.pc + 1) (h.tmp.set d (h.tmp.get q &&& imm))) ∧
    (∀ d q imm, st = .addi d q imm → step s = go (h.pc + 1) (h.tmp.set d (h.tmp.get q + imm))) ∧
    (∀ q l, st = .bnez q l → step s = go (if h.tmp.get q ≠ 0 then l else h.pc + 1) h.tmp) ∧
    (∀ q l, st = .beqz q l → step s = go (if h.tmp.get q = 0 then l else h.pc + 1) h.tmp) ∧
    (st = .stop → step s = .next { s with turns := rest }) ∧
    (∀ loc v t, (st = .swImm loc v ∨ ∃ q, st = .swTmp loc q ∧ v = h.tmp.get q) →
      step { s with turns := .host (.write (s.params.base + loc.off) 4 v) :: rest } = .next t →
      step s = .next { t with script := ⟨h.prog, h.pc + 1, h.tmp⟩ }) ∧
    (∀ d loc v err t, st = .lw d loc →
      step { s with turns := .host (.read (s.params.base + loc.off) 4) :: rest } = .next t →
      t.trace = s.trace ++ [⟨.read (s.params.base + loc.off) 4, ⟨some v, err⟩⟩] →
      step s = .next { t with script := ⟨h.prog, h.pc + 1, h.tmp.set d v⟩ })

/-- R70: the expansions of the pseudo-instructions, at statement index 9 and for a 40-bit register. -/
def Obligations.PseudoInstructionsExpand : Prop :=
  pseudoCmd .pmul = [.swImm (.named .cmd 0) 5] ∧
  pseudoWait 9 = [.lw .t7 (.named .status 0), .andi .t7 .t7 1, .bnez .t7 9] ∧
  pseudoWr ⟨40, 16, 0⟩ (.operand .aX) 0x0200000001 =
    [.swImm (.named (.operand .aX) 0) 1, .swImm (.named (.operand .aX) 1) 2] ∧
  pseudoRdw .t1 .rX 0 = [.lw .t1 (.named .rX 0)] ∧
  pseudoClrdrop = [.swImm (.named .status 0) 0x00000200] ∧
  pseudoCall .padd 8 = [.swImm (.named .cmd 0) 4, .lw .t7 (.named .status 0), .andi .t7 .t7 1, .bnez .t7 9]
end

