-- ==== Sys2Proof/Laws/State.lean ====
section
/-! SUPPORT. One lemma per field per update of State, all true by rfl, so that no proof unfolds an update; and the
same for the operand registers by name. -/

namespace Sys2Proof.Machine

@[simp] theorem State.setOps_params (v : Operands) (s : State) : (s.setOps v).params = s.params := rfl
@[simp] theorem State.setOps_ops (v : Operands) (s : State) : (s.setOps v).ops = v := rfl
@[simp] theorem State.setOps_curve (v : Operands) (s : State) : (s.setOps v).curve = s.curve := rfl
@[simp] theorem State.setOps_result (v : Operands) (s : State) : (s.setOps v).result = s.result := rfl
@[simp] theorem State.setOps_status (v : Operands) (s : State) : (s.setOps v).status = s.status := rfl
@[simp] theorem State.setOps_latch (v : Operands) (s : State) : (s.setOps v).latch = s.latch := rfl
@[simp] theorem State.setOps_script (v : Operands) (s : State) : (s.setOps v).script = s.script := rfl
@[simp] theorem State.setOps_turns (v : Operands) (s : State) : (s.setOps v).turns = s.turns := rfl
@[simp] theorem State.setOps_trace (v : Operands) (s : State) : (s.setOps v).trace = s.trace := rfl

@[simp] theorem State.setCurve_params (v : LoadedCurve) (s : State) : (s.setCurve v).params = s.params := rfl
@[simp] theorem State.setCurve_ops (v : LoadedCurve) (s : State) : (s.setCurve v).ops = s.ops := rfl
@[simp] theorem State.setCurve_curve (v : LoadedCurve) (s : State) : (s.setCurve v).curve = v := rfl
@[simp] theorem State.setCurve_result (v : LoadedCurve) (s : State) : (s.setCurve v).result = s.result := rfl
@[simp] theorem State.setCurve_status (v : LoadedCurve) (s : State) : (s.setCurve v).status = s.status := rfl
@[simp] theorem State.setCurve_latch (v : LoadedCurve) (s : State) : (s.setCurve v).latch = s.latch := rfl
@[simp] theorem State.setCurve_script (v : LoadedCurve) (s : State) : (s.setCurve v).script = s.script := rfl
@[simp] theorem State.setCurve_turns (v : LoadedCurve) (s : State) : (s.setCurve v).turns = s.turns := rfl
@[simp] theorem State.setCurve_trace (v : LoadedCurve) (s : State) : (s.setCurve v).trace = s.trace := rfl

@[simp] theorem State.setResult_params (v : Results) (s : State) : (s.setResult v).params = s.params := rfl
@[simp] theorem State.setResult_ops (v : Results) (s : State) : (s.setResult v).ops = s.ops := rfl
@[simp] theorem State.setResult_curve (v : Results) (s : State) : (s.setResult v).curve = s.curve := rfl
@[simp] theorem State.setResult_result (v : Results) (s : State) : (s.setResult v).result = v := rfl
@[simp] theorem State.setResult_status (v : Results) (s : State) : (s.setResult v).status = s.status := rfl
@[simp] theorem State.setResult_latch (v : Results) (s : State) : (s.setResult v).latch = s.latch := rfl
@[simp] theorem State.setResult_script (v : Results) (s : State) : (s.setResult v).script = s.script := rfl
@[simp] theorem State.setResult_turns (v : Results) (s : State) : (s.setResult v).turns = s.turns := rfl
@[simp] theorem State.setResult_trace (v : Results) (s : State) : (s.setResult v).trace = s.trace := rfl

@[simp] theorem State.setStatus_params (v : Status) (s : State) : (s.setStatus v).params = s.params := rfl
@[simp] theorem State.setStatus_ops (v : Status) (s : State) : (s.setStatus v).ops = s.ops := rfl
@[simp] theorem State.setStatus_curve (v : Status) (s : State) : (s.setStatus v).curve = s.curve := rfl
@[simp] theorem State.setStatus_result (v : Status) (s : State) : (s.setStatus v).result = s.result := rfl
@[simp] theorem State.setStatus_status (v : Status) (s : State) : (s.setStatus v).status = v := rfl
@[simp] theorem State.setStatus_latch (v : Status) (s : State) : (s.setStatus v).latch = s.latch := rfl
@[simp] theorem State.setStatus_script (v : Status) (s : State) : (s.setStatus v).script = s.script := rfl
@[simp] theorem State.setStatus_turns (v : Status) (s : State) : (s.setStatus v).turns = s.turns := rfl
@[simp] theorem State.setStatus_trace (v : Status) (s : State) : (s.setStatus v).trace = s.trace := rfl

@[simp] theorem State.setLatch_params (v : Latch) (s : State) : (s.setLatch v).params = s.params := rfl
@[simp] theorem State.setLatch_ops (v : Latch) (s : State) : (s.setLatch v).ops = s.ops := rfl
@[simp] theorem State.setLatch_curve (v : Latch) (s : State) : (s.setLatch v).curve = s.curve := rfl
@[simp] theorem State.setLatch_result (v : Latch) (s : State) : (s.setLatch v).result = s.result := rfl
@[simp] theorem State.setLatch_status (v : Latch) (s : State) : (s.setLatch v).status = s.status := rfl
@[simp] theorem State.setLatch_latch (v : Latch) (s : State) : (s.setLatch v).latch = v := rfl
@[simp] theorem State.setLatch_script (v : Latch) (s : State) : (s.setLatch v).script = s.script := rfl
@[simp] theorem State.setLatch_turns (v : Latch) (s : State) : (s.setLatch v).turns = s.turns := rfl
@[simp] theorem State.setLatch_trace (v : Latch) (s : State) : (s.setLatch v).trace = s.trace := rfl

@[simp] theorem State.setScript_params (v : HostScript) (s : State) : (s.setScript v).params = s.params := rfl
@[simp] theorem State.setScript_ops (v : HostScript) (s : State) : (s.setScript v).ops = s.ops := rfl
@[simp] theorem State.setScript_curve (v : HostScript) (s : State) : (s.setScript v).curve = s.curve := rfl
@[simp] theorem State.setScript_result (v : HostScript) (s : State) : (s.setScript v).result = s.result := rfl
@[simp] theorem State.setScript_status (v : HostScript) (s : State) : (s.setScript v).status = s.status := rfl
@[simp] theorem State.setScript_latch (v : HostScript) (s : State) : (s.setScript v).latch = s.latch := rfl
@[simp] theorem State.setScript_script (v : HostScript) (s : State) : (s.setScript v).script = v := rfl
@[simp] theorem State.setScript_turns (v : HostScript) (s : State) : (s.setScript v).turns = s.turns := rfl
@[simp] theorem State.setScript_trace (v : HostScript) (s : State) : (s.setScript v).trace = s.trace := rfl

@[simp] theorem State.setTurns_params (v : List Turn) (s : State) : (s.setTurns v).params = s.params := rfl
@[simp] theorem State.setTurns_ops (v : List Turn) (s : State) : (s.setTurns v).ops = s.ops := rfl
@[simp] theorem State.setTurns_curve (v : List Turn) (s : State) : (s.setTurns v).curve = s.curve := rfl
@[simp] theorem State.setTurns_result (v : List Turn) (s : State) : (s.setTurns v).result = s.result := rfl
@[simp] theorem State.setTurns_status (v : List Turn) (s : State) : (s.setTurns v).status = s.status := rfl
@[simp] theorem State.setTurns_latch (v : List Turn) (s : State) : (s.setTurns v).latch = s.latch := rfl
@[simp] theorem State.setTurns_script (v : List Turn) (s : State) : (s.setTurns v).script = s.script := rfl
@[simp] theorem State.setTurns_turns (v : List Turn) (s : State) : (s.setTurns v).turns = v := rfl
@[simp] theorem State.setTurns_trace (v : List Turn) (s : State) : (s.setTurns v).trace = s.trace := rfl

@[simp] theorem State.setTrace_params (v : List BusEvent) (s : State) : (s.setTrace v).params = s.params := rfl
@[simp] theorem State.setTrace_ops (v : List BusEvent) (s : State) : (s.setTrace v).ops = s.ops := rfl
@[simp] theorem State.setTrace_curve (v : List BusEvent) (s : State) : (s.setTrace v).curve = s.curve := rfl
@[simp] theorem State.setTrace_result (v : List BusEvent) (s : State) : (s.setTrace v).result = s.result := rfl
@[simp] theorem State.setTrace_status (v : List BusEvent) (s : State) : (s.setTrace v).status = s.status := rfl
@[simp] theorem State.setTrace_latch (v : List BusEvent) (s : State) : (s.setTrace v).latch = s.latch := rfl
@[simp] theorem State.setTrace_script (v : List BusEvent) (s : State) : (s.setTrace v).script = s.script := rfl
@[simp] theorem State.setTrace_turns (v : List BusEvent) (s : State) : (s.setTrace v).turns = s.turns := rfl
@[simp] theorem State.setTrace_trace (v : List BusEvent) (s : State) : (s.setTrace v).trace = v := rfl

@[simp] theorem Operands.get_set_same (o : Operands) (r : OpReg) (v : Nat) : (o.set r v).get r = v := by
  cases r <;> rfl

theorem Operands.get_set_other (o : Operands) {r r' : OpReg} (v : Nat) (h : r' ≠ r) :
    (o.set r v).get r' = o.get r' := by
  cases r <;> cases r' <;> first | rfl | exact absurd rfl h

@[simp] theorem Operands.set_aInf (o : Operands) (r : OpReg) (v : Nat) : (o.set r v).aInf = o.aInf := by
  cases r <;> rfl

@[simp] theorem Operands.set_bInf (o : Operands) (r : OpReg) (v : Nat) : (o.set r v).bInf = o.bInf := by
  cases r <;> rfl

@[simp] theorem Operands.get_writeFlags (o : Operands) (d : Word) (r : OpReg) :
    (o.writeFlags d).get r = o.get r := by
  cases r <;> rfl

end Sys2Proof.Machine
end

