-- ==== Sys2Proof/Laws/Ops.lean ====
section
/-! SUPPORT. What each shared operation can do, said once: the completion of a command, a bus access, and a step. -/

namespace Sys2Proof.Machine

/-! ## Completion -/

/-- `Exec(op, snapshot)` of R33, over all five commands. -/
def commandOutcome (pr : Params) (q : Snapshot) : Instr → Except ErrorKind Writes
  | .modinv => evalModinv q
  | .curveLoad => evalCurveLoad q
  | .pdbl => evalPdbl q
  | .padd => evalPadd q
  | .pmul => evalPmul pr q

/-- Every command is the completion of its outcome (R33, R108). -/
theorem exec_eq_complete (i : Instr) (s : State) :
    exec i s = .next (s.complete (commandOutcome s.params s.latch.snapshot i)) := by
  cases i <;> rfl

/-- An error completion writes STATUS and empties the latch (R108, R109). -/
theorem complete_error (e : ErrorKind) (s : State) :
    s.complete (.error e) = { s with status := s.status.completed e.code, latch := .empty } := rfl

/-- The registers of a completion with these writes (R63, R108). -/
theorem complete_ok (ws : Writes) (s : State) :
    s.complete (.ok ws) =
      { s.applyWrites ws with status := s.status.completed 0, latch := .empty } := by
  cases ws <;> rfl

theorem complete_inverse (v : Nat) (s : State) :
    s.complete (.ok (.inverse v)) =
      { s with result := { s.result with inv := v }, status := s.status.completed 0, latch := .empty } := rfl

theorem complete_curve (c : LoadedCurve) (s : State) :
    s.complete (.ok (.curve c)) =
      { s with curve := c, status := s.status.completed 0, latch := .empty } := rfl

theorem complete_point (pt : Point) (s : State) :
    s.complete (.ok (.point pt)) =
      { s with result := s.result.writePoint pt, status := s.status.completed 0, latch := .empty } := rfl

@[simp] theorem ErrorKind.code_ne_zero (e : ErrorKind) : e.code ≠ 0 := by cases e <;> decide

theorem ErrorKind.code_le_seven (e : ErrorKind) : e.code.toNat ≤ 7 := by cases e <;> decide

section
variable (o : Except ErrorKind Writes) (s : State)

@[simp] theorem complete_params : (s.complete o).params = s.params := by rcases o with _ | (_ | _ | _) <;> rfl
@[simp] theorem complete_ops : (s.complete o).ops = s.ops := by rcases o with _ | (_ | _ | _) <;> rfl
@[simp] theorem complete_script : (s.complete o).script = s.script := by rcases o with _ | (_ | _ | _) <;> rfl
@[simp] theorem complete_turns : (s.complete o).turns = s.turns := by rcases o with _ | (_ | _ | _) <;> rfl
@[simp] theorem complete_trace : (s.complete o).trace = s.trace := by rcases o with _ | (_ | _ | _) <;> rfl
@[simp] theorem complete_latch : (s.complete o).latch = .empty := by rcases o with _ | (_ | _ | _) <;> rfl
@[simp] theorem complete_busy : (s.complete o).status.busy = false := by rcases o with _ | (_ | _ | _) <;> rfl
@[simp] theorem complete_done : (s.complete o).status.done = true := by rcases o with _ | (_ | _ | _) <;> rfl
@[simp] theorem complete_dropped : (s.complete o).status.dropped = s.status.dropped := by
  rcases o with _ | (_ | _ | _) <;> rfl

end

/-- The registers a successful command writes, by the kind of command (R63). -/
theorem commandOutcome_ok {pr : Params} {q : Snapshot} {i : Instr} {ws : Writes}
    (h : commandOutcome pr q i = .ok ws) :
    (i = .modinv ∧ ∃ v, ws = .inverse v) ∨ (i = .curveLoad ∧ ∃ c, ws = .curve c ∧ c.valid = true) ∨
    (i ≠ .modinv ∧ i ≠ .curveLoad ∧ ∃ pt, ws = .point pt) := by
  have point : ∀ {pts rest}, onLoadedCurve q pts (pointWrites rest) = .ok ws → ∃ pt, ws = .point pt := by
    intro pts rest h
    unfold onLoadedCurve pointWrites at h
    repeat' split at h
    all_goals first | cases h; exact ⟨_, rfl⟩ | cases h
  cases i with
  | modinv =>
    simp only [commandOutcome, evalModinv] at h
    split at h <;> cases h
    exact .inl ⟨rfl, _, rfl⟩
  | curveLoad =>
    simp only [commandOutcome, evalCurveLoad, curveCheck] at h
    repeat' split at h
    all_goals cases h
    rename_i h
    repeat' split at h
    all_goals cases h
    exact .inr (.inl ⟨rfl, _, rfl, rfl⟩)
  | pdbl => exact .inr (.inr ⟨by simp, by simp, point h⟩)
  | padd => exact .inr (.inr ⟨by simp, by simp, point h⟩)
  | pmul =>
    simp only [commandOutcome, evalPmul] at h
    split at h
    · exact .inr (.inr ⟨by simp, by simp, point (rest := .error .invalidScalar) h⟩)
    · exact .inr (.inr ⟨by simp, by simp, point h⟩)

/-! ## The register file -/

/-- The index table of R16 has no two rows for one register, and no gap. -/
theorem Reg.ofIndex_eq_some (n : Nat) (r : Reg) : Reg.ofIndex n = some r ↔ r.index = n := by
  constructor
  · intro h
    unfold Reg.ofIndex at h
    split at h <;> cases h <;> rfl
  · rintro rfl
    rcases r with _ | _ | _ | _ | (_ | _ | _ | _ | _ | _ | _ | _ | _ | _ | _ | _ | _) | _ | _ | _ | _ | _ | _ | _ | _ | _ | _ <;> rfl

@[simp] theorem Reg.ofIndex_index (r : Reg) : Reg.ofIndex r.index = some r := (Reg.ofIndex_eq_some _ _).2 rfl

theorem Reg.index_lt (r : Reg) : r.index < 0x1B := by
  rcases r with _ | _ | _ | _ | (_ | _ | _ | _ | _ | _ | _ | _ | _ | _ | _ | _ | _) | _ | _ | _ | _ | _ | _ | _ | _ | _ | _ <;> decide

theorem Reg.ofIndex_reserved {n : Nat} (h : 0x1B ≤ n) : Reg.ofIndex n = none := by
  cases hr : Reg.ofIndex n with
  | none => rfl
  | some r => have := Reg.index_lt r; rw [(Reg.ofIndex_eq_some n r).1 hr] at this; omega

theorem OpReg.width_le {pr : Params} (h : pr.wf = true) (r : OpReg) : 2 ≤ r.width pr ∧ r.width pr ≤ 2048 := by
  simp only [Params.wf, Bool.and_eq_true, decide_eq_true_eq] at h
  cases r <;> simp only [OpReg.width] <;> omega

/-- The effects that an aligned write can have (R46). -/
theorem writeWord_cases (s : State) (n j : Nat) (d : Word) :
    s.writeWord n j d = s ∨
    (n = 1 ∧ j = 0 ∧ s.status.busy = true ∧ s.writeWord n j d = s.drop) ∨
    (n = 1 ∧ j = 0 ∧ s.status.busy = false ∧ s.writeWord n j d = s.accept d) ∨
    (n = 2 ∧ j = 0 ∧ s.writeWord n j d = s.setStatus (s.status.afterWrite d)) ∨
    (n = 3 ∧ j = 0 ∧ s.writeWord n j d = s.setOps (s.ops.writeFlags d)) ∨
    (∃ r : OpReg, n = r.index ∧ j < wordsOfWidth (r.width s.params) ∧
      s.writeWord n j d =
        s.setOps (s.ops.set r (replaceWord (s.ops.get r) j d % 2 ^ r.width s.params))) := by
  unfold State.writeWord
  split
  · exact .inl rfl
  · rename_i h
    have hn := (Reg.ofIndex_eq_some _ _).1 h
    split
    · split <;> rename_i hb
      · exact .inr (.inl ⟨hn.symm, by assumption, hb, rfl⟩)
      · exact .inr (.inr (.inl ⟨hn.symm, by assumption, by simpa using hb, rfl⟩))
    · exact .inl rfl
  · rename_i h
    have hn := (Reg.ofIndex_eq_some _ _).1 h
    split
    · exact .inr (.inr (.inr (.inl ⟨hn.symm, by assumption, rfl⟩)))
    · exact .inl rfl
  · rename_i h
    have hn := (Reg.ofIndex_eq_some _ _).1 h
    split
    · exact .inr (.inr (.inr (.inr (.inl ⟨hn.symm, by assumption, rfl⟩))))
    · exact .inl rfl
  · rename_i r h
    have hn := (Reg.ofIndex_eq_some _ _).1 h
    split
    · exact .inr (.inr (.inr (.inr (.inr ⟨r, hn.symm, by assumption, rfl⟩))))
    · exact .inl rfl
  all_goals exact .inl rfl

/-- The state after a transaction that completes, less its record: nothing, or an aligned write's effect. -/
theorem busTransact_cases {req : BusRequest} {s s' : State} {resp : Response}
    (h : busTransact req s = .next (s', resp)) :
    s' = s.record req resp ∨
    ∃ n j d, s' = (s.writeWord n j d).record req resp := by
  unfold busTransact at h
  split at h
  · cases h
  split at h
  · cases h
  split at h
  · simp only [Host.Outcome.next.injEq, Prod.mk.injEq] at h
    obtain ⟨rfl, rfl⟩ := h
    exact .inl rfl
  · rename_i addr _ d
    simp only [Host.Outcome.next.injEq, Prod.mk.injEq] at h
    obtain ⟨rfl, rfl⟩ := h
    unfold State.busWrite
    split
    · exact .inl rfl
    · exact .inr ⟨_, _, _, rfl⟩

/-! ## One step -/

/-- What the engine's turn can do (R33, R133). -/
theorem engineStep_cases (s : State) :
    (s.status.busy = true ∧ s.latch.op ≠ .empty ∧ ∃ o, engineStep s = .next (s.complete o) ∧
      ((∃ i, s.latch.op = .command i ∧ o = commandOutcome s.params s.latch.snapshot i) ∨
        (s.latch.op = .illegal ∧ o = .error .illegalCommand))) ∨
    ((s.status.busy = false ∨ s.latch.op = .empty) ∧ engineStep s = .next s) := by
  unfold engineStep
  split <;> rename_i hb
  · split
    · rename_i i hi
      exact .inl ⟨hb, by simp [hi], _, exec_eq_complete i s, .inl ⟨i, hi, rfl⟩⟩
    · rename_i hi
      exact .inl ⟨hb, by simp [hi], _, rfl, .inr ⟨hi, rfl⟩⟩
    · exact .inr ⟨.inr ‹_›, rfl⟩
  · exact .inr ⟨.inl (by simpa using hb), rfl⟩

/-- A host access that completes is one transaction. -/
theorem hostStep_next {req : BusRequest} {s t : State} (h : hostStep req s = .next t) :
    ∃ resp, busTransact req s = .next (t, resp) := by
  unfold hostStep at h
  split at h <;> simp_all

/-- What the script's turn can do: change the script alone, or make one transaction and then change the script. -/
theorem scriptStep_next {s t : State} (h : s.scriptStep = .next t) :
    (∃ sc, t = s.setScript sc) ∨
    ∃ req resp s' sc, busTransact req s = .next (s', resp) ∧ t = s'.setScript sc := by
  unfold State.scriptStep at h
  split at h
  · cases h; exact .inl ⟨s.script, rfl⟩
  · unfold State.runStmt at h
    split at h
    case h_1 | h_2 =>
      unfold State.scriptStore at h
      split at h <;> cases h
      exact .inr ⟨_, _, _, _, ‹_›, rfl⟩
    case h_3 =>
      unfold State.scriptLoad at h
      split at h <;> cases h
      exact .inr ⟨_, _, _, _, ‹_›, rfl⟩
    all_goals cases h; exact .inl ⟨_, rfl⟩

/-- An access never depends on the turns to come. -/
theorem writeWord_setTurns (s : State) (rest : List Turn) (n j : Nat) (d : Word) :
    (s.setTurns rest).writeWord n j d = (s.writeWord n j d).setTurns rest := by
  unfold State.writeWord
  split <;> simp only [State.setTurns_status, State.setTurns_params, State.setTurns_ops, apply_ite (State.setTurns rest)] <;>
    rfl

/-- The completion that the engine makes in `s`: the outcome of the latched command, or IllegalCommand (R33, R104). -/
def EngineOutcome (s : State) (o : Except ErrorKind Writes) : Prop :=
  (∃ i, s.latch.op = .command i ∧ o = commandOutcome s.params s.latch.snapshot i) ∨
  (s.latch.op = .illegal ∧ o = .error .illegalCommand)

/-- What one transaction can do to the block. -/
theorem busTransact_block {req : BusRequest} {s s' : State} {resp : Response}
    (h : busTransact req s = .next (s', resp)) :
    SameRegisters s s' ∨ ∃ n j d, SameRegisters (s.writeWord n j d) s' := by
  rcases busTransact_cases h with rfl | ⟨n, j, d, rfl⟩
  · exact .inl ⟨rfl, rfl, rfl, rfl, rfl, rfl⟩
  · exact .inr ⟨n, j, d, rfl, rfl, rfl, rfl, rfl, rfl⟩

/-- What one turn can do to the block: nothing, one aligned write of the host, a completion, or a reset. -/
theorem runTurn_cases {t : Turn} {s u : State} (h : runTurn t s = .next u) :
    SameRegisters s u ∨
    ((t = .script ∨ ∃ req, t = .host req) ∧ ∃ n j d, SameRegisters (s.writeWord n j d) u) ∨
    (t = .engine ∧ s.status.busy = true ∧ s.latch.op ≠ .empty ∧ ∃ o, u = s.complete o ∧ EngineOutcome s o) ∨
    (t = .reset ∧ u = s.resetBlock) := by
  cases t with
  | host req =>
    obtain ⟨resp, hb⟩ := hostStep_next h
    rcases busTransact_block hb with h1 | h1
    · exact .inl h1
    · exact .inr (.inl ⟨.inr ⟨_, rfl⟩, h1⟩)
  | script =>
    rcases scriptStep_next h with ⟨sc, rfl⟩ | ⟨req, resp, s', sc, hb, rfl⟩
    · exact .inl ⟨rfl, rfl, rfl, rfl, rfl, rfl⟩
    · rcases busTransact_block hb with h1 | h1
      · exact .inl h1
      · exact .inr (.inl ⟨.inl rfl, h1⟩)
  | engine =>
    rcases engineStep_cases s with ⟨h1, h2, o, h3, h4⟩ | ⟨_, h2⟩
    · rw [runTurn, h3] at h
      cases h
      exact .inr (.inr (.inl ⟨rfl, h1, h2, o, rfl, h4⟩))
    · rw [runTurn, h2] at h
      cases h
      exact .inl ⟨rfl, rfl, rfl, rfl, rfl, rfl⟩
  | reset =>
    cases h
    exact .inr (.inr (.inr ⟨rfl, rfl⟩))

/-- What one step can do to the block, whichever agent takes it. -/
theorem step_cases {s u : State} (h : step s = .next u) :
    SameRegisters s u ∨
    ((∀ rest, s.turns ≠ .engine :: rest) ∧ ∃ n j d, SameRegisters (s.writeWord n j d) u) ∨
    (((∃ rest, s.turns = .engine :: rest) ∨ s.turns = []) ∧ s.status.busy = true ∧ s.latch.op ≠ .empty ∧
      ∃ o rest, u = (s.setTurns rest).complete o ∧ EngineOutcome s o) ∨
    (∃ rest, s.turns = .reset :: rest ∧ u = (s.setTurns rest).resetBlock) := by
  unfold step runNextTurn at h
  split at h
  · rename_i ht
    rcases runTurn_cases h with h | ⟨-, h⟩ | ⟨-, h1, h2, o, h3, h4⟩ | ⟨h1, -⟩
    · exact .inl h
    · exact .inr (.inl ⟨by simp [ht], h⟩)
    · exact .inr (.inr (.inl ⟨.inr ht, h1, h2, o, [], by rw [h3, ← ht]; rfl, h4⟩))
    · unfold defaultTurn at h1
      split at h1 <;> cases h1
  · rename_i t rest ht
    rcases runTurn_cases h with h | ⟨h0, n, j, d, h⟩ | ⟨h0, h1, h2, o, h3, h4⟩ | ⟨h1, h2⟩
    · exact .inl h
    · refine .inr (.inl ⟨?_, n, j, d, ?_⟩)
      · rcases h0 with rfl | ⟨req, rfl⟩ <;> simp [ht]
      · rwa [writeWord_setTurns] at h
    · exact .inr (.inr (.inl ⟨.inl ⟨rest, by rw [ht, h0]⟩, h1, h2, o, rest, h3, h4⟩))
    · exact .inr (.inr (.inr ⟨rest, by rw [ht, h1], h2⟩))

/-- A run takes its first step and goes on. -/
theorem core_run_succ {s t : State} (n : Nat) (h : step s = .next t) :
    Sys2Proof.core.run (n + 1) s = Sys2Proof.core.run n t := by
  have h' : Sys2Proof.core.step s = .next t := h
  simp only [Host.Core.run, h']

end Sys2Proof.Machine
end

