-- ==== Sys2Proof/Laws/Bus.lean ====
section
/-! SUPPORT. The bus side, said once: where a word of the window lies (R44, R68), what an aligned access does in one
step (R45, R46), and the words of a register bit by bit (R47). -/

namespace Sys2Proof.Machine

/-- `ReplaceWord` of R47 as the parts above, in and below the word. -/
theorem replaceWord_eq (v j : Nat) (d : Word) :
    replaceWord v j d = (v / 2 ^ (32 * j) / 2 ^ 32 * 2 ^ 32 + d.toNat) * 2 ^ (32 * j) + v % 2 ^ (32 * j) := by
  unfold replaceWord wordSlice
  have h1 := Nat.div_add_mod v (2 ^ (32 * j))
  have h2 := Nat.div_add_mod (v / 2 ^ (32 * j)) (2 ^ 32)
  generalize v / 2 ^ (32 * j) = q at *
  generalize 2 ^ (32 * j) = m at *
  generalize v % m = l at *
  generalize q / 2 ^ 32 = hi at *
  generalize q % 2 ^ 32 = lo at *
  subst h2
  subst h1
  have : m * (2 ^ 32 * hi + lo) + l - lo * m = hi * 2 ^ 32 * m + l := by
    apply Nat.sub_eq_of_eq_add
    ring
  rw [this]
  ring

/-- `ReplaceWord` of R47, bit by bit. -/
theorem replaceWord_testBit (v j : Nat) (d : Word) (i : Nat) :
    (replaceWord v j d).testBit i =
      if 32 * j ≤ i ∧ i < 32 * j + 32 then d.getLsbD (i - 32 * j) else v.testBit i := by
  rw [replaceWord_eq, Nat.mul_comm _ (2 ^ (32 * j)),
    Nat.testBit_two_pow_mul_add _ (Nat.mod_lt _ (Nat.two_pow_pos _))]
  by_cases h1 : i < 32 * j
  · simp [h1, Nat.testBit_mod_two_pow]
  · simp only [h1, if_false]
    rw [Nat.mul_comm _ (2 ^ 32), Nat.testBit_two_pow_mul_add _ d.isLt]
    by_cases h2 : i - 32 * j < 32
    · have : 32 * j ≤ i ∧ i < 32 * j + 32 := by omega
      simp [h2, this, BitVec.getLsbD]
    · have : ¬(32 * j ≤ i ∧ i < 32 * j + 32) := by omega
      simp only [h2, this, if_false]
      rw [Nat.testBit_div_two_pow, Nat.testBit_div_two_pow]
      congr 1
      omega

/-- A word slice as a bus word: the truncation does the `mod 2^32` (R47). -/
theorem ofNat_wordSlice (v j : Nat) : BitVec.ofNat 32 (wordSlice v j) = BitVec.ofNat 32 (v / 2 ^ (32 * j)) := by
  apply BitVec.eq_of_toNat_eq
  simp [wordSlice]

theorem OpReg.ofIndex_index (r : OpReg) : Reg.ofIndex r.index = some (.operand r) :=
  Reg.ofIndex_index (.operand r)

theorem OpReg.index_le (r : OpReg) : r.index ≤ 0x10 := by cases r <;> decide

/-- Word `j` of index `n` lies in the window, is aligned, and decodes to `n` and `j` (R16, R44, R68). -/
theorem wordAddress_decodes {pr : Params} (h : pr.wf = true) {n j : Nat} (hn : n ≤ 0x1F) (hj : j < 64) :
    inWindow pr (pr.base + n * 0x100 + 4 * j) = true ∧ windowOff (pr.base + n * 0x100 + 4 * j) % 4 = 0 ∧
    offIndex (windowOff (pr.base + n * 0x100 + 4 * j)) = n ∧
    offWord (windowOff (pr.base + n * 0x100 + 4 * j)) = j := by
  simp only [Params.wf, Bool.and_eq_true, decide_eq_true_eq] at h
  unfold inWindow windowOff offIndex offWord
  refine ⟨?_, ?_, ?_, ?_⟩
  · simp only [Bool.and_eq_true, decide_eq_true_eq]
    omega
  all_goals omega

/-- The step of an aligned read (R45): the word, and nothing but the record changes. -/
theorem step_read (s : State) (rest : List Turn) (n j : Nat) (hp : s.params.wf = true) (hn : n ≤ 0x1F)
    (hj : j < 64) (h : s.turns = .host (.read (s.params.base + n * 0x100 + 4 * j) 4) :: rest) :
    step s = .next ((s.setTurns rest).record (.read (s.params.base + n * 0x100 + 4 * j) 4)
      ⟨some (s.readWord n j), false⟩) := by
  obtain ⟨h1, h2, h3, h4⟩ := wordAddress_decodes hp hn hj
  simp only [step, runNextTurn, h, runTurn, hostStep, busTransact, BusRequest.size, BusRequest.addr, ne_eq,
    not_true_eq_false, if_false, State.setTurns_params, h1, Bool.not_true, Bool.false_eq_true, State.busRead, h2, h3, h4]
  rfl

/-- The step of an aligned write (R46). -/
theorem step_write (s : State) (rest : List Turn) (n j : Nat) (d : Word) (hp : s.params.wf = true) (hn : n ≤ 0x1F)
    (hj : j < 64) (h : s.turns = .host (.write (s.params.base + n * 0x100 + 4 * j) 4 d) :: rest) :
    step s = .next (((s.setTurns rest).writeWord n j d).record (.write (s.params.base + n * 0x100 + 4 * j) 4 d)
      ⟨none, false⟩) := by
  obtain ⟨h1, h2, h3, h4⟩ := wordAddress_decodes hp hn hj
  simp only [step, runNextTurn, h, runTurn, hostStep, busTransact, BusRequest.size, BusRequest.addr, ne_eq,
    not_true_eq_false, if_false, State.setTurns_params, h1, Bool.not_true, Bool.false_eq_true, State.busWrite, h2, h3, h4]

/-- What one in-window access of the host does while a command is in flight (R34): it completes, and STATUS keeps
BUSY, DONE and ERR, and the latch, the curve and the results stay. -/
theorem busTransact_whileBusy {req : BusRequest} {s s' : State} {resp : Response} (hb : s.status.busy = true)
    (h : busTransact req s = .next (s', resp)) :
    s'.params = s.params ∧ s'.curve = s.curve ∧ s'.result = s.result ∧ s'.latch = s.latch ∧
    s'.status.busy = true ∧ s'.status.done = s.status.done ∧ s'.status.err = s.status.err ∧
    s'.script = s.script ∧ s'.turns = s.turns := by
  have hw : ∀ n j d, (s.writeWord n j d).params = s.params ∧ (s.writeWord n j d).curve = s.curve ∧
      (s.writeWord n j d).result = s.result ∧ (s.writeWord n j d).latch = s.latch ∧
      (s.writeWord n j d).status.busy = true ∧ (s.writeWord n j d).status.done = s.status.done ∧
      (s.writeWord n j d).status.err = s.status.err ∧ (s.writeWord n j d).script = s.script ∧
      (s.writeWord n j d).turns = s.turns := by
    intro n j d
    rcases writeWord_cases s n j d with h | ⟨-, -, -, h⟩ | ⟨-, -, hn, -⟩ | ⟨-, -, h⟩ | ⟨-, -, h⟩ | ⟨r, -, -, h⟩
    · rw [h]; exact ⟨rfl, rfl, rfl, rfl, hb, rfl, rfl, rfl, rfl⟩
    · rw [h]; exact ⟨rfl, rfl, rfl, rfl, hb, rfl, rfl, rfl, rfl⟩
    · simp [hb] at hn
    · rw [h]
      refine ⟨rfl, rfl, rfl, rfl, ?_, ?_, ?_, rfl, rfl⟩ <;>
        simp only [State.setStatus_status, Status.afterWrite] <;> split <;> first | exact hb | rfl
    · rw [h]; exact ⟨rfl, rfl, rfl, rfl, hb, rfl, rfl, rfl, rfl⟩
    · rw [h]; exact ⟨rfl, rfl, rfl, rfl, hb, rfl, rfl, rfl, rfl⟩
  rcases busTransact_cases h with rfl | ⟨n, j, d, rfl⟩
  · exact ⟨rfl, rfl, rfl, rfl, hb, rfl, rfl, rfl, rfl⟩
  · exact hw n j d

/-- An access that the host port has (R41, R43) never stops the machine. -/
theorem busTransact_completes {req : BusRequest} {s : State} (h : req.wf s.params = true) :
    ∃ s' resp, busTransact req s = .next (s', resp) := by
  cases req with
  | read addr size =>
    simp only [BusRequest.wf, Bool.and_eq_true, decide_eq_true_eq] at h
    have hw : inWindow s.params addr = true := by simp [inWindow, h.1.2, h.2]
    simp [busTransact, BusRequest.size, BusRequest.addr, h.1.1, hw]
  | write addr size d =>
    simp only [BusRequest.wf, Bool.and_eq_true, decide_eq_true_eq] at h
    have hw : inWindow s.params addr = true := by simp [inWindow, h.1.2, h.2]
    simp [busTransact, BusRequest.size, BusRequest.addr, h.1.1, hw]

end Sys2Proof.Machine
end

