-- ==== Sys2Proof/Laws/Decode.lean ====
section
/-! SUPPORT. What the command decoder can answer, said once. -/

namespace Sys2Proof.Laws

theorem decodeOpcode_eq_ok {n : Nat} {i : Instr} (h : decodeOpcode n = .ok i) : n = (encode i).toNat := by
  unfold decodeOpcode at h
  split at h <;> cases h <;> rfl

/-- Each command has exactly its one word (R60, R61). -/
theorem decodeWord_eq_ok (w : Word) (i : Instr) : decodeWord w = .ok i ↔ w = encode i := by
  constructor
  · intro h
    unfold decodeWord at h
    split at h
    · cases h
    · rename_i hr
      have ho := decodeOpcode_eq_ok h
      apply BitVec.eq_of_toNat_eq
      simp only [reservedField, opcodeField, ne_eq, Decidable.not_not] at hr ho
      omega
  · rintro rfl
    cases i <;> rfl

/-- The value of four byte lanes (R47). -/
theorem wordOfBytes_toNat (b0 b1 b2 b3 : Byte) :
    (wordOfBytes b0 b1 b2 b3).toNat =
      b0.toNat + 0x100 * b1.toNat + 0x10000 * b2.toNat + 0x1000000 * b3.toNat := by
  have := b0.isLt; have := b1.isLt; have := b2.isLt; have := b3.isLt
  simp only [wordOfBytes, BitVec.toNat_ofNat]
  omega

end Sys2Proof.Laws
end

