-- ==== Sys2Proof/Laws/Field.lean ====
section
/-! SUPPORT. The extended Euclidean loop (R71): it ends within the passes that `modInv` allows, it keeps the gcd of its
remainders, and it keeps `t_i * value ≡ r_i (mod p)`. -/

namespace Sys2Proof.Laws

open Sys2Proof.Machine

theorem zmod_lt (a : Int) {m : Nat} (h : 0 < m) : zmod a m < m := by
  unfold zmod
  have := Int.emod_lt_of_pos a (show (0 : Int) < m by omega)
  have := Int.emod_nonneg a (show (m : Int) ≠ 0 by omega)
  omega

theorem zmod_cast (a : Int) {m : Nat} (h : 0 < m) : ((zmod a m : Nat) : Int) = a % m := by
  unfold zmod
  exact Int.toNat_of_nonneg (Int.emod_nonneg a (by omega))

/-- On a natural number `mod` is Nat's own remainder. -/
@[simp] theorem zmod_natCast (a m : Nat) : zmod (a : Int) m = a % m := by
  unfold zmod
  norm_cast

/-- One pass: the remainders step as in Euclid's algorithm. -/
theorem euclidNext_r1 (e : Euclid) : (euclidNext e).r1 = e.r0 % e.r1 := by
  have := Nat.div_add_mod e.r0 e.r1
  have h : e.r1 * (e.r0 / e.r1) = e.r0 / e.r1 * e.r1 := Nat.mul_comm _ _
  simp only [euclidNext]
  omega

@[simp] theorem euclidNext_r0 (e : Euclid) : (euclidNext e).r0 = e.r1 := rfl

/-- With at least `r1` passes allowed the loop runs to its end. -/
theorem euclidRun_ends (n : Nat) (e : Euclid) (h : e.r1 ≤ n) : (euclidRun n e).r1 = 0 := by
  induction n generalizing e with
  | zero => simpa [euclidRun] using h
  | succ n ih =>
    unfold euclidRun
    split
    · assumption
    · have := Nat.mod_lt e.r0 (Nat.pos_of_ne_zero ‹_›)
      exact ih _ (by rw [euclidNext_r1]; omega)

/-- The loop keeps the gcd of its two remainders. -/
theorem euclidRun_gcd (n : Nat) (e : Euclid) :
    Nat.gcd (euclidRun n e).r0 (euclidRun n e).r1 = Nat.gcd e.r0 e.r1 := by
  induction n generalizing e with
  | zero => rfl
  | succ n ih =>
    unfold euclidRun
    split
    · rfl
    · rw [ih, euclidNext_r0, euclidNext_r1, Nat.gcd_comm e.r1, ← Nat.gcd_rec, Nat.gcd_comm]

/-- The Bezout invariant of R71: `t_i * value ≡ r_i (mod p)`. -/
def Bezout (p : Nat) (value : Int) (e : Euclid) : Prop :=
  e.t0 * value ≡ e.r0 [ZMOD p] ∧ e.t1 * value ≡ e.r1 [ZMOD p]

theorem bezout_start {p : Nat} (value : Int) (h : 0 < p) : Bezout p value (euclidStart p value) := by
  constructor
  · simp [euclidStart, Int.ModEq]
  · simp [euclidStart, zmod_cast value h, Int.ModEq]

theorem bezout_next {p : Nat} {value : Int} {e : Euclid} (h : Bezout p value e) : Bezout p value (euclidNext e) := by
  refine ⟨h.2, ?_⟩
  have hr : ((euclidNext e).r1 : Int) = e.r0 - (e.r0 / e.r1 : Nat) * e.r1 := by
    simp only [euclidNext]
    rw [Nat.cast_sub (Nat.div_mul_le_self _ _)]
    push_cast
    ring
  have ht : (euclidNext e).t1 = e.t0 - (e.r0 / e.r1 : Nat) * e.t1 := rfl
  rw [hr, ht, sub_mul, mul_assoc]
  exact h.1.sub (h.2.mul_left _)

theorem bezout_run {p : Nat} {value : Int} (n : Nat) {e : Euclid} (h : Bezout p value e) :
    Bezout p value (euclidRun n e) := by
  induction n generalizing e with
  | zero => exact h
  | succ n ih =>
    unfold euclidRun
    split
    · exact h
    · exact ih (bezout_next h)

end Sys2Proof.Laws
end

