-- ==== Sys2Proof/Laws/PerInstr.lean ====
section
/-! SUPPORT. Statements made once per constructor of Instr, about the command as syntax. -/

namespace Sys2Proof.Laws.Encoding

/-- The command is well-formed, its word has the format CMD32 (R59), and the decoder reads it back (R61). -/
def Statement (i : Instr) : Prop :=
  i.wf = true ∧ commandWordWf (encode i) = true ∧ decodeWord (encode i) = .ok i

theorem modinv : Statement .modinv := ⟨rfl, by decide, rfl⟩

theorem curveLoad : Statement .curveLoad := ⟨rfl, by decide, rfl⟩

theorem pdbl : Statement .pdbl := ⟨rfl, by decide, rfl⟩

theorem padd : Statement .padd := ⟨rfl, by decide, rfl⟩

theorem pmul : Statement .pmul := ⟨rfl, by decide, rfl⟩

end Sys2Proof.Laws.Encoding
end

