-- ==== Sys2Proof/Tests/Slice0.lean ====
section
/-! SUPPORT. The model's own tests. Expected values come from 95_test_vectors.md (the vector's id stands in the
docstring) or from the encodings of 30_encoding.md, never from a run of the model. After them stands one witness for
every obligation that has hypotheses: a concrete state and operands that meet them all. -/

namespace Sys2Proof.Tests

open Sys2Proof Sys2Proof.Machine Sys2Proof.Machine.Claim

-- One theorem at a time: checked side by side, the many kernel evaluations below want a thread and a stack each.
set_option Elab.async false

/-! ## Helpers -/

/-- The outcome is a next state with this property. -/
def nextIs (o : Host.Outcome State Fault Refusal) (p : State → Bool) : Bool :=
  match o with
  | .next t => p t
  | .fault _ => false
  | .refused _ => false

/-- The curves of 95_test_vectors.md. -/
def noCurve : LoadedCurve := .zero
def ec1 : LoadedCurve := ⟨true, 0, 7, 97, 79, 13, 19⟩
def ec2 : LoadedCurve := ⟨true, 2, 3, 97, 5, 3, 6⟩
def ec15 : LoadedCurve := ⟨true, 0, 1, 15, 0, 2, 3⟩

/-- An idle block with this curve and these operands, R = (5, 5) and R_INV = 9. -/
def idle (c : LoadedCurve) (o : Operands) : State :=
  { State.reset with curve := c, ops := o, result := ⟨false, 5, 5, 9⟩ }

/-- The same block with command `i` in the latch. -/
def inFlight (i : Instr) (c : LoadedCurve) (o : Operands) : State :=
  { idle c o with
    status := ⟨true, false, false, 0⟩
    latch := ⟨.command i, ⟨o, c.valid, c.a, c.b, c.p⟩⟩ }

/-- Point operands A and B, and a scalar. -/
def points (ax ay bx by_ k : Nat) : Operands :=
  { Operands.zero with aX := ax, aY := ay, bX := bx, bY := by_, k := k }

def withTurns (ts : List Turn) (s : State) : State := { s with turns := ts }

/-- The STATUS word and the point result after `i`. -/
def pointAfter (i : Instr) (c : LoadedCurve) (o : Operands) (status : Nat) (inf : Bool) (x y : Nat) : Bool :=
  nextIs (exec i (inFlight i c o)) fun t =>
    t.readReg .status = status && t.result.inf = inf && t.result.x = x && t.result.y = y

/-! ## WellFormed: an ill-formed term for each check -/

theorem test_wf_every_command : ∀ i : Instr, i.wf = true := by intro i; cases i <;> rfl
theorem test_wf_word_reservedBit_refused : commandWordWf 0x00000011 = false := by decide
theorem test_wf_word_opcodeZero_refused : commandWordWf 0x00000000 = false := by decide
theorem test_wf_word_opcodeSix_refused : commandWordWf 0x00000006 = false := by decide
theorem test_wf_word_pmul_accepted : commandWordWf 0x00000005 = true := by decide
theorem test_wf_params_w_refused : Params.wf ⟨1, 16, 0⟩ = false ∧ Params.wf ⟨2049, 16, 0⟩ = false := by decide
theorem test_wf_params_kw_refused : Params.wf ⟨16, 1, 0⟩ = false ∧ Params.wf ⟨16, 2049, 0⟩ = false := by decide
theorem test_wf_params_base_refused : Params.wf ⟨16, 16, 0x1000⟩ = false := by decide
theorem test_wf_params_bounds_accepted : Params.wf ⟨2, 2048, 0x2000⟩ = true := by decide
theorem test_wf_request_size_refused :
    BusRequest.wf .ofVectors (.read 0x200 2) = false ∧ BusRequest.wf .ofVectors (.write 0x200 1 0) = false := by decide
theorem test_wf_request_window_refused :
    BusRequest.wf ⟨16, 16, 0x2000⟩ (.read 0x1FFC 4) = false ∧
    BusRequest.wf ⟨16, 16, 0x2000⟩ (.write 0x4000 4 0) = false := by decide
theorem test_wf_loc_word_refused : Loc.wf (.named .cmd 64) = false := by decide
theorem test_wf_loc_offset_refused : Loc.wf (.offset 0x2000) = false := by decide
theorem test_wf_stmt_location_refused :
    Stmt.wf 9 (.swImm (.offset 0x2000) 0) = false ∧ Stmt.wf 9 (.swTmp (.named .cmd 64) .t0) = false ∧
    Stmt.wf 9 (.lw .t0 (.offset 0x2000)) = false := by decide
theorem test_wf_stmt_label_refused :
    Stmt.wf 3 (.bnez .t0 3) = false ∧ Stmt.wf 3 (.beqz .t0 3) = false ∧ Stmt.wf 3 (.bnez .t0 2) = true := by decide
theorem test_wf_script_without_end_refused : scriptWf [.addi .t0 .t0 1] = false := by decide
theorem test_wf_script_bad_statement_refused : scriptWf [.bnez .t0 7, .stop] = false := by decide
theorem test_wf_script_accepted : scriptWf (pseudoCall .pdbl 0 ++ [.stop]) = true := by decide

/-! ## Decode: words written out bit by bit from R59 and R60 (RSVD 31:4, OPCODE 3:0) -/

theorem test_decode_modinv : decodeWord 0b0000_0000_0000_0000_0000_0000_0000_0001 = .ok .modinv := by decide
theorem test_decode_curveLoad : decodeWord 0b0000_0000_0000_0000_0000_0000_0000_0010 = .ok .curveLoad := by decide
theorem test_decode_pdbl : decodeWord 0b0000_0000_0000_0000_0000_0000_0000_0011 = .ok .pdbl := by decide
theorem test_decode_padd : decodeWord 0b0000_0000_0000_0000_0000_0000_0000_0100 = .ok .padd := by decide
theorem test_decode_pmul : decodeWord 0b0000_0000_0000_0000_0000_0000_0000_0101 = .ok .pmul := by decide

/-- The illegal words of section 2.6. -/
theorem test_decode_illegal :
    decodeWord 0x00000000 = .error .unassignedOpcode ∧ decodeWord 0x00000006 = .error .unassignedOpcode ∧
    decodeWord 0x0000000F = .error .unassignedOpcode ∧ decodeWord 0x00000010 = .error .reservedBits ∧
    decodeWord 0x00000011 = .error .reservedBits ∧ decodeWord 0x80000001 = .error .reservedBits ∧
    decodeWord 0xFFFFFFFF = .error .reservedBits := by decide

/-- Lane 0 is the lowest byte (R47), and a command is exactly four bytes (R65). -/
theorem test_decode_bytes :
    decodeBytes [0x03, 0x00, 0x00, 0x00, 0xAA] = .ok (.pdbl, [0xAA]) ∧
    decodeBytes [0x00, 0x00, 0x00, 0x03] = .error .reservedBits ∧
    decodeBytes [0x03, 0x00, 0x00] = .error .truncated := by decide

/-- R67. -/
theorem test_disassemble :
    disassemble 0x00000002 = "CURVE_LOAD" ∧ disassemble 0x8000000B = ".illegal 0x8000000b" := by decide

/-! ## The commands: one step each, section 2 of 95_test_vectors.md -/

/-- M5: a value above p is reduced. -/
theorem test_modinv_reduces_value :
    nextIs (exec .modinv (inFlight .modinv noCurve { Operands.zero with invP := 97, invV := 135 })) (fun t =>
      t.result.inv = 23 && t.readReg .status = 0x002 && t.result.x = 5) = true := by decide +kernel

/-- M21: gcd(6, 15) = 3, and R_INV keeps its value. -/
theorem test_modinv_divisionUndefined :
    nextIs (exec .modinv (inFlight .modinv noCurve { Operands.zero with invP := 15, invV := 6 })) (fun t =>
      t.result.inv = 9 && t.readReg .status = 0x012) = true := by decide +kernel

/-- L2: b is reduced. -/
theorem test_curveLoad_reduces_b :
    nextIs (exec .curveLoad (inFlight .curveLoad noCurve
      { Operands.zero with cfgA := 0, cfgB := 104, cfgP := 97, cfgN := 79, cfgGx := 13, cfgGy := 19 })) (fun t =>
      t.curve = ec1 && t.readReg .status = 0x102) = true := by decide +kernel

/-- L15, with a curve loaded before: gx is not reduced, and the old curve stays. -/
theorem test_curveLoad_pointNotOnCurve :
    nextIs (exec .curveLoad (inFlight .curveLoad ec2
      { Operands.zero with cfgA := 0, cfgB := 7, cfgP := 97, cfgN := 79, cfgGx := 110, cfgGy := 19 })) (fun t =>
      t.curve = ec2 && t.readReg .status = 0x132) = true := by decide +kernel

/-- DB5. -/
theorem test_pdbl_general : pointAfter .pdbl ec2 (points 3 6 0 0 0) 0x102 false 80 10 = true := by decide +kernel

/-- DB15. -/
theorem test_pdbl_invariantViolation : pointAfter .pdbl ec15 (points 2 3 0 0 0) 0x152 false 5 5 = true := by
  decide +kernel

/-- AD2: x2 − x1 is negative. -/
theorem test_padd_negative_difference :
    pointAfter .padd ec1 (points 27 75 13 19 0) 0x102 false 73 32 = true := by decide +kernel

/-- AD14: INF as A does not skip the check of B. -/
theorem test_padd_checks_b :
    pointAfter .padd ec1 { points 0 0 13 20 0 with aInf := true } 0x132 false 5 5 = true := by decide +kernel

/-- K5. -/
theorem test_pmul_twenty : pointAfter .pmul ec1 (points 13 19 0 0 20) 0x102 false 61 28 = true := by decide +kernel

/-- K12: k = −1. -/
theorem test_pmul_negative : pointAfter .pmul ec1 (points 13 19 0 0 0xFFFF) 0x142 false 5 5 = true := by
  decide +kernel

/-- Section 2.6: an illegal word, right after reset. -/
theorem test_illegal_completes :
    nextIs (step (State.reset.withFetchWord 32 0x80000001)) (fun t => t.readReg .status = 0x072) = true := by
  decide +kernel

/-- What withFetchWord places is what the next step runs: PDBL without a curve (DB13). -/
theorem test_withFetchWord_runs :
    nextIs (step (State.reset.withFetchWord 32 0x00000003)) (fun t => t.readReg .status = 0x062) = true := by
  decide +kernel

/-! ## The bus, section 2.7 -/

/-- B2: misaligned, no effect. -/
theorem test_bus_misaligned :
    nextIs (hostStep (.write 0x0401 4 5) State.reset) (fun t =>
      t.ops.aX = 0 && t.trace = [⟨.write 0x0401 4 5, ⟨none, true⟩⟩]) = true := by decide

/-- B7: bits at or above W are dropped. -/
theorem test_bus_masks_to_width :
    nextIs (hostStep (.write 0x0400 4 0x12345678) State.reset) (fun t => t.ops.aX = 0x5678) = true := by decide

/-- B11: bit 9 clears DROPPED, and nothing else. -/
theorem test_bus_clears_dropped :
    nextIs (hostStep (.write 0x0200 4 0xFFFFFFFF) { State.reset with status := ⟨false, true, true, 3⟩ }) (fun t =>
      t.status = ⟨false, true, false, 3⟩) = true := by decide

/-- B12: W = 40, word 1. -/
theorem test_bus_top_word :
    nextIs (hostStep (.write 0x0404 4 0xFFFFFFFF) (.init ⟨40, 16, 0⟩)) (fun t =>
      t.ops.aX = 0xFF00000000 && t.readWord 4 1 = 0x000000FF && t.readWord 4 0 = 0) = true := by decide +kernel

/-- B15: a CMD write while BUSY. -/
theorem test_bus_drops :
    nextIs (hostStep (.write 0x0100 4 1) (inFlight .pdbl ec1 (points 13 19 0 0 0))) (fun t =>
      t.status = ⟨true, false, true, 0⟩ && t.latch.op = .command .pdbl) = true := by decide

/-- A script's `lw`: t1 gets the word, and pc goes on (R69). -/
theorem test_script_load :
    nextIs (State.scriptStep { State.reset with script := ⟨[.lw .t1 (.named .params 0), .stop], 0, .zero⟩ }) (fun t =>
      t.script.tmp.t1 = 0x00100010 && t.script.pc = 1 && t.scriptAtEnd && t.runEnded) = true := by decide +kernel

/-- Section 2.7, B1, through a build whose window does not stand at 0: offset 0 is BASE. -/
theorem test_bus_base :
    nextIs (hostStep (.read 0x2000 4) (.init ⟨16, 16, 0x2000⟩)) (fun t =>
      t.trace = [⟨.read 0x2000 4, ⟨some 0x00100010, false⟩⟩]) = true := by decide +kernel

/-! ## Witnesses: for every obligation with hypotheses, a state and operands that meet them all -/

/-- PDBL of G in flight on EC1: the state of most witnesses. -/
def busyState : State := inFlight .pdbl ec1 (points 13 19 0 0 0)

/-- The same block idle, in the two builds at the ends of R6's ranges. -/
def smallest : State := .init ⟨2, 2, 0x2000⟩
def widest : State := .init ⟨2048, 2048, 0⟩

theorem points_inRange : (points 13 19 0 0 0).InRange .ofVectors := by
  intro r
  cases r <;> decide

theorem busyState_inv : (withTurns [.engine] busyState).Inv where
  params_wf := by decide
  ops_inRange := points_inRange
  curve_inRange := by refine ⟨?_, ?_, ?_, ?_, ?_, ?_⟩ <;> decide
  curve_sound := by
    show if true = true then _ else _
    rw [if_pos rfl]
    refine ⟨?_, ?_, ?_, ?_, ?_⟩ <;> decide +kernel
  result_inRange := by
    refine ⟨?_, ?_, ?_, ?_⟩
    · decide
    · decide
    · decide
    · intro h; cases h
  status_legal := by
    refine ⟨?_, ?_, ?_⟩
    · rintro ⟨-, h⟩; cases h
    · intro _; rfl
    · decide
  latch_sound := ⟨⟨fun _ => by decide, fun _ => rfl⟩, points_inRange, fun _ => ⟨rfl, rfl⟩⟩

theorem witness_DecodeAndEncodeAgree :
    (∃ i : Instr, i.wf = true) ∧ decodeBytes [0x05, 0x00, 0x00, 0x00, 0x07] = .ok (.pmul, [0x07]) :=
  ⟨⟨.pmul, rfl⟩, by decide⟩

theorem witness_ResetTurnClearsTheBlock : (withTurns [.reset, .script] busyState).turns = .reset :: [.script] := rfl

theorem witness_InvariantHoldsAtReset : Params.wf ⟨2, 2048, 0x2000⟩ = true ∧ Params.wf ⟨2048, 2, 0⟩ = true := by
  decide

theorem witness_StepKeepsInvariant :
    (withTurns [.engine] busyState).Inv ∧ ∃ t, step (withTurns [.engine] busyState) = .next t :=
  ⟨busyState_inv, _, rfl⟩

/-- CUR_B to CUR_GY of EC1, and R_X = 5, R_Y = 6, R_INF = 1 and R_INV = 9, read at the offsets of R16's table. -/
theorem test_bus_reads_engine_registers :
    (∀ av ∈ [(0x1200, 7), (0x1300, 97), (0x1400, 79), (0x1500, 13), (0x1600, 19), (0x1700, 5), (0x1800, 6), (0x1900, 1),
      (0x1A00, 9)],
      nextIs (hostStep (.read av.1 4) { idle ec1 .zero with result := ⟨true, 5, 6, 9⟩ }) (fun t =>
        t.trace = [⟨.read av.1 4, ⟨some (BitVec.ofNat 32 av.2), false⟩⟩]) = true) := by decide +kernel

theorem witness_RegisterMapIsExact :
    Reg.ofIndex 0x1A = some .rInv ∧ Reg.ofIndex 0x00 = some .params ∧ 0x1B ≤ 0x1B := by decide

/-- The lowest and the highest misaligned address of the window at 0x2000, read and written. -/
theorem witness_MisalignedAccessHasNoEffect :
    ∀ addr ∈ [0x2001, 0x3FFF],
      smallest.params.base ≤ addr ∧ addr < smallest.params.base + 0x2000 ∧ addr % 4 ≠ 0 ∧
      (withTurns [.host (.read addr 4)] smallest).turns = .host (.read addr 4) :: [] ∧
      (withTurns [.host (.write addr 4 5)] smallest).turns = .host (.write addr 4 5) :: [] := by decide

theorem witness_OtherWidthsAreRefused :
    ∀ size ∈ [0, 1, 2, 3, 5, 8], size ≠ 4 ∧
      (withTurns [.host (.read 0x400 size)] busyState).turns = .host (.read 0x400 size) :: [] ∧
      (withTurns [.host (.write 0x400 size 5)] busyState).turns = .host (.write 0x400 size 5) :: [] := by decide

/-- The address below the window and the one above it. -/
theorem witness_OutsideTheWindowFaults :
    ∀ addr ∈ [0x1FFF, 0x4000],
      (addr < smallest.params.base ∨ smallest.params.base + 0x2000 ≤ addr) ∧
      (withTurns [.host (.read addr 4)] smallest).turns = .host (.read addr 4) :: [] ∧
      (withTurns [.host (.write addr 4 5)] smallest).turns = .host (.write addr 4 5) :: [] := by decide

/-- Words 0 and 63, of a register and of the first and last reserved index; and R_X right after a completion. -/
theorem witness_AlignedReadReturnsTheWord :
    (∀ j ∈ [0, 63], j < 64 ∧ busyState.params.wf = true ∧ busyState.status.busy = true ∧
      busyState.latch.op = .command .pdbl ∧
      (withTurns [.engine, .host (.read (wordAddr busyState.params Reg.rX.index j) 4)] busyState).turns =
        .engine :: .host (.read (wordAddr busyState.params Reg.rX.index j) 4) :: []) ∧
    widest.params.wf = true ∧ ∀ j ∈ [0, 63], j < 64 ∧
      (withTurns [.host (.read (wordAddr widest.params Reg.rInv.index j) 4)] widest).turns =
        .host (.read (wordAddr widest.params Reg.rInv.index j) 4) :: [] ∧
      ∀ n ∈ [0x1B, 0x1F], 0x1B ≤ n ∧ n ≤ 0x1F ∧
        (withTurns [.host (.read (wordAddr widest.params n j) 4)] widest).turns =
          .host (.read (wordAddr widest.params n j) 4) :: [] := by decide

/-- Word 0 and the last word of K in the widest build, and a word beyond the register in the smallest. -/
theorem witness_OperandWriteReplacesTheWord :
    (∀ r : OpReg, widest.ops.get r < 2 ^ r.width widest.params) ∧
    (∀ r : OpReg, smallest.ops.get r < 2 ^ r.width smallest.params) ∧
    (widest.params.wf = true ∧ smallest.params.wf = true) ∧
    (∀ j ∈ [0, 63], j < 64 ∧
      (withTurns [.host (.write (wordAddr widest.params OpReg.k.index j) 4 7)] widest).turns =
        .host (.write (wordAddr widest.params OpReg.k.index j) 4 7) :: []) ∧
    (withTurns [.host (.write (wordAddr smallest.params OpReg.k.index 1) 4 7)] smallest).turns =
      .host (.write (wordAddr smallest.params OpReg.k.index 1) 4 7) :: [] := by
  refine ⟨?_, ?_, by decide, by decide, rfl⟩ <;> intro r <;> cases r <;> exact Nat.two_pow_pos _

theorem witness_ReadAfterWriteReturnsTheData :
    widest.params.wf = true ∧ (∀ r : OpReg, widest.ops.get r < 2 ^ r.width widest.params) ∧ 63 < 64 ∧
    (withTurns [.host (.write (wordAddr widest.params OpReg.cfgGy.index 63) 4 7),
      .host (.read (wordAddr widest.params OpReg.cfgGy.index 63) 4)] widest).turns =
        .host (.write (wordAddr widest.params OpReg.cfgGy.index 63) 4 7) ::
          .host (.read (wordAddr widest.params OpReg.cfgGy.index 63) 4) :: [] := by
  refine ⟨by decide, ?_, by decide, rfl⟩
  intro r
  cases r <;> exact Nat.two_pow_pos _

/-- A read-only register, the two ends of the reserved indices, and word 1 of STATUS. -/
theorem witness_IgnoredWritesChangeNothing :
    busyState.params.wf = true ∧
    ((IsReadOnly .curP ∧ 0x13 = Reg.curP.index) ∧ (0x1B ≤ 0x1B ∧ 0x1B ≤ 0x1F) ∧ (0x1B ≤ 0x1F ∧ 0x1F ≤ 0x1F) ∧
      ((0x02 = 0x01 ∨ 0x02 = 0x02 ∨ 0x02 = 0x03) ∧ 1 ≤ 1)) ∧
    ∀ nj ∈ [(0x13, 0), (0x1B, 0), (0x1F, 63), (0x02, 1)], nj.2 < 64 ∧
      (withTurns [.host (.write (wordAddr busyState.params nj.1 nj.2) 4 7)] busyState).turns =
        .host (.write (wordAddr busyState.params nj.1 nj.2) 4 7) :: [] := by
  refine ⟨by decide, ⟨⟨by unfold IsReadOnly; decide, rfl⟩, by decide, by decide, by decide⟩, by decide⟩

theorem witness_CmdWriteIsAcceptedWhenIdle :
    smallest.params.wf = true ∧ smallest.status.busy = false ∧
    (withTurns [.host (.write (smallest.params.base + 0x100) 4 5)] smallest).turns =
      .host (.write (smallest.params.base + 0x100) 4 5) :: [] := by decide

theorem witness_CmdWriteIsDroppedWhenBusy :
    busyState.params.wf = true ∧ busyState.status.busy = true ∧
    (withTurns [.host (.write (busyState.params.base + 0x100) 4 1)] busyState).turns =
      .host (.write (busyState.params.base + 0x100) 4 1) :: [] ∧
    ∀ j ∈ [1, 63], 1 ≤ j ∧ j < 64 ∧
      (withTurns [.host (.write (wordAddr busyState.params 0x01 j) 4 1)] busyState).turns =
        .host (.write (wordAddr busyState.params 0x01 j) 4 1) :: [] := by decide

theorem witness_StatusWriteClearsDropped :
    smallest.params.wf = true ∧
    (withTurns [.host (.write (smallest.params.base + 0x200) 4 0x200)] smallest).turns =
      .host (.write (smallest.params.base + 0x200) 4 0x200) :: [] := by decide

theorem witness_OpflagsHoldsItsTwoBits :
    smallest.params.wf = true ∧
    (withTurns [.host (.write (smallest.params.base + 0x300) 4 0xFFFFFFFF),
      .host (.read (smallest.params.base + 0x300) 4)] smallest).turns =
        .host (.write (smallest.params.base + 0x300) 4 0xFFFFFFFF) ::
          .host (.read (smallest.params.base + 0x300) 4) :: [] := by decide

theorem witness_ParamsNeverChange :
    smallest.params.wf = true ∧ widest.params.wf = true ∧ ∃ t, step (withTurns [.reset] busyState) = .next t :=
  ⟨by decide, by decide, _, rfl⟩

/-- An access of the host, a step of its script, and the script's step on the default turn. -/
theorem witness_HostNeverWritesEngineRegisters :
    (∃ t, step (withTurns [.host (.write 0x1300 4 97)] busyState) = .next t) ∧
    (∃ t, step (withTurns [.script] busyState) = .next t) ∧
    (∃ rest, (∃ req, (withTurns [.host (.write 0x1300 4 97)] busyState).turns = .host req :: rest) ∨
      (withTurns [.host (.write 0x1300 4 97)] busyState).turns = .script :: rest) ∧
    (∃ rest, (∃ req, (withTurns [.script] busyState).turns = .host req :: rest) ∨
      (withTurns [.script] busyState).turns = .script :: rest) ∧
    (let s : State := { State.reset with script := ⟨[.swImm (.named .cmd 0) 1, .stop], 0, .zero⟩ }
     (∃ t, step s = .next t) ∧ s.turns = [] ∧ s.status.busy = false) :=
  ⟨⟨_, rfl⟩, ⟨_, rfl⟩, ⟨[], .inl ⟨_, rfl⟩⟩, ⟨[], .inr rfl⟩, ⟨_, rfl⟩, rfl, rfl⟩

theorem witness_StepRunsTheLatchedCommand :
    busyState.status.busy = true ∧ busyState.latch.op = .command .pdbl ∧
    (withTurns [.engine] busyState).turns = .engine :: [] ∧ (withTurns [] busyState).turns = [] ∧
    State.reset.status.busy = false ∧ decodeTableWord 32 0x00000005 = some .pmul := by decide

/-- The two neighbours of the five words, and the largest word. -/
theorem witness_IllegalWordCompletesWithCode7 :
    smallest.params.wf = true ∧ smallest.status.busy = false ∧
    ((0x00000000#32).toNat = 0 ∧ 5 < (0x00000006#32).toNat ∧ 5 < (0xFFFFFFFF#32).toNat) ∧
    (withTurns [.host (.write (smallest.params.base + 0x100) 4 6), .engine] smallest).turns =
      .host (.write (smallest.params.base + 0x100) 4 6) :: .engine :: [] :=
  ⟨by decide, rfl, ⟨rfl, by decide, by decide⟩, rfl⟩

/-- The engine's turn; a statement at pc on the script's turn and on the default one; and pc just past the script's
last statement on both. -/
theorem witness_QuiescentBlockIsStill :
    let at_ (pc : Nat) (ts : List Turn) : State :=
      { withTurns ts State.reset with script := ⟨[.addi .t0 .t0 1], pc, .zero⟩ }
    (at_ 0 [.engine]).status.busy = false ∧ (at_ 0 [.engine]).turns = .engine :: [] ∧
    (at_ 0 [.script]).turns = .script :: [] ∧ ((at_ 0 []).turns = [] ∧ [] = ([] : List Turn)) ∧
    (∀ ts ∈ [[Turn.script], []], (at_ 0 ts).script.prog[(at_ 0 ts).script.pc]? = some (.addi .t0 .t0 1) ∧
      (at_ 1 ts).script.prog[(at_ 1 ts).script.pc]? = none) ∧
    IsHostOnly (.addi .t0 .t0 1) :=
  ⟨rfl, rfl, rfl, ⟨rfl, rfl⟩, by decide, trivial⟩

theorem witness_AcceptedCommandAlwaysCompletes :
    (withTurns [.engine] busyState).Inv ∧ (withTurns [.engine] busyState).status.busy = true ∧
    (withTurns [.engine] busyState).turns = .engine :: [] := ⟨busyState_inv, rfl, rfl⟩

theorem witness_CommandFrame : Instr.pdbl ≠ .curveLoad ∧ Instr.pdbl ≠ .modinv ∧
    (Instr.modinv = .modinv ∨ Instr.modinv = .curveLoad) := by decide

theorem witness_ErrorCompletionIsPrecise :
    ∃ t, exec .pdbl (inFlight .pdbl ec15 (points 2 3 0 0 0)) = .next t ∧ t.status.err ≠ 0 :=
  ⟨_, rfl, by decide +kernel⟩

/-- Two snapshots that agree where R63 says a command reads, and differ elsewhere: with A and B at INF, in every
coordinate. -/
theorem witness_CommandReadsOnlyItsOperands :
    let o := { points 13 19 1 2 5 with aInf := true, bInf := true, invP := 7, invV := 3 }
    let o' := { points 14 20 3 4 5 with aInf := true, bInf := true, invP := 7, invV := 3 }
    let p : Snapshot := ⟨o, true, 0, 7, 97⟩
    let q : Snapshot := ⟨o', true, 0, 7, 97⟩
    (q.ops.invP = p.ops.invP ∧ q.ops.invV = p.ops.invV) ∧
    (q.ops.cfgA = p.ops.cfgA ∧ q.ops.cfgB = p.ops.cfgB ∧ q.ops.cfgP = p.ops.cfgP ∧ q.ops.cfgN = p.ops.cfgN ∧
      q.ops.cfgGx = p.ops.cfgGx ∧ q.ops.cfgGy = p.ops.cfgGy) ∧
    (q.curveValid = p.curveValid ∧ q.curA = p.curA ∧ q.curB = p.curB ∧ q.curP = p.curP) ∧
    (q.ops.aInf = p.ops.aInf ∧ (p.ops.aInf = false → q.ops.aX = p.ops.aX ∧ q.ops.aY = p.ops.aY)) ∧
    (q.ops.bInf = p.ops.bInf ∧ (p.ops.bInf = false → q.ops.bX = p.ops.bX ∧ q.ops.bY = p.ops.bY)) ∧
    q.ops.k = p.ops.k := by decide

/-- A dropped CMD write, a rewritten operand and a STATUS read, then the completion. -/
theorem witness_HostAccessesDoNotAffectTheCommandInFlight :
    let reqs : List BusRequest := [.write 0x100 4 1, .write 0x400 4 27, .read 0x200 4]
    let s := withTurns (reqs.map Turn.host ++ .engine :: []) busyState
    s.status.busy = true ∧ (∀ req ∈ reqs, req.wf s.params = true) ∧
      s.turns = reqs.map Turn.host ++ .engine :: [] := by decide

theorem witness_StatusReadAfterCmdIsOfThatCommand :
    smallest.params.wf = true ∧ smallest.status.busy = false ∧
    (withTurns [.host (.write (smallest.params.base + 0x100) 4 3),
      .host (.read (smallest.params.base + 0x200) 4)] smallest).turns =
        .host (.write (smallest.params.base + 0x100) 4 3) :: .host (.read (smallest.params.base + 0x200) 4) :: [] ∧
    (withTurns [.host (.write (smallest.params.base + 0x100) 4 3), .engine,
      .host (.read (smallest.params.base + 0x200) 4)] smallest).turns =
        .host (.write (smallest.params.base + 0x100) 4 3) :: .engine ::
          .host (.read (smallest.params.base + 0x200) 4) :: [] := by decide

/-- The smallest modulus, a negative value, and each way to fail. -/
theorem witness_ModInvMeetsItsContract :
    (2 ≤ 2 ∧ Int.gcd ((1 : Int) % (2 : Nat)) (2 : Nat) = 1) ∧
    (2 ≤ 97 ∧ Int.gcd ((-14 : Int) % (97 : Nat)) (97 : Nat) = 1) ∧
    ((1 < 2 ∨ Int.gcd ((5 : Int) % (1 : Nat)) (1 : Nat) ≠ 1) ∧ Int.gcd ((0 : Int) % (2 : Nat)) (2 : Nat) ≠ 1 ∧
      Int.gcd ((6 : Int) % (15 : Nat)) (15 : Nat) ≠ 1) := by decide +kernel

theorem witness_EuclidLoopIsBounded : 2 ≤ 2 ∧ 2 ≤ 65521 := by decide

/-- M6 and M13. -/
theorem witness_ModinvWritesTheInverse :
    ∀ pv ∈ [(2, 1), (65535, 65534)],
      let s := inFlight .modinv noCurve { Operands.zero with invP := pv.1, invV := pv.2 }
      pv.1 = s.latch.snapshot.ops.invP ∧ pv.2 = s.latch.snapshot.ops.invV ∧ 2 ≤ pv.1 ∧
        Nat.gcd (pv.2 % pv.1) pv.1 = 1 := by decide +kernel

/-- M17, M18, M20 and M21. -/
theorem witness_ModinvReportsDivisionUndefined :
    ∀ pv ∈ [(0, 5), (1, 0), (2, 0), (15, 6)],
      let s := inFlight .modinv noCurve { Operands.zero with invP := pv.1, invV := pv.2 }
      pv.1 = s.latch.snapshot.ops.invP ∧ pv.2 = s.latch.snapshot.ops.invV ∧
        (pv.1 < 2 ∨ Nat.gcd (pv.2 % pv.1) pv.1 ≠ 1) := by decide +kernel

/-- Staged curve parameters. -/
def staged (a b p n gx gy : Nat) : Operands :=
  { Operands.zero with cfgA := a, cfgB := b, cfgP := p, cfgN := n, cfgGx := gx, cfgGy := gy }

/-- L2, and the smallest modulus: y² = x³ + x over P = 3 with G = (0, 0). -/
theorem witness_CurveLoadLoadsTheCurve :
    (let s := inFlight .curveLoad noCurve (staged 0 104 97 79 13 19)
     s.latch.snapshot.ops.cfgP = 97 ∧ s.latch.snapshot.ops.cfgA % 97 = 0 ∧ s.latch.snapshot.ops.cfgB % 97 = 7 ∧
       s.latch.snapshot.ops.cfgN = 79 ∧ s.latch.snapshot.ops.cfgGx = 13 ∧ s.latch.snapshot.ops.cfgGy = 19) ∧
    (3 ≤ 97 ∧ (4 * 0 ^ 3 + 27 * 7 ^ 2) % 97 ≠ 0 ∧ LiesOn ⟨0, 7, 97⟩ 13 19) ∧
    (let s := inFlight .curveLoad noCurve (staged 4 3 3 0 0 0)
     s.latch.snapshot.ops.cfgP = 3 ∧ s.latch.snapshot.ops.cfgA % 3 = 1 ∧ s.latch.snapshot.ops.cfgB % 3 = 0) ∧
    (3 ≤ 3 ∧ (4 * 1 ^ 3 + 27 * 0 ^ 2) % 3 ≠ 0 ∧ LiesOn ⟨1, 0, 3⟩ 0 0) := by
  unfold LiesOn
  decide

/-- L9 and L7 for SingularCurve, L14 and L15 for PointNotOnCurve. -/
theorem witness_CurveLoadFailureKeepsTheCurve :
    (let s := inFlight .curveLoad ec1 (staged 0 7 2 0 0 1)
     s.latch.snapshot.ops.cfgP = 2 ∧ s.latch.snapshot.ops.cfgA % 2 = 0 ∧ s.latch.snapshot.ops.cfgB % 2 = 1 ∧
       (2 < 3 ∨ (4 * 0 ^ 3 + 27 * 1 ^ 2) % 2 = 0)) ∧
    (97 < 3 ∨ (4 * 0 ^ 3 + 27 * 0 ^ 2) % 97 = 0) ∧
    (let s := inFlight .curveLoad ec1 (staged 0 7 97 79 13 20)
     s.latch.snapshot.ops.cfgP = 97 ∧ s.latch.snapshot.ops.cfgA % 97 = 0 ∧ s.latch.snapshot.ops.cfgB % 97 = 7 ∧
       s.latch.snapshot.ops.cfgGx = 13 ∧ s.latch.snapshot.ops.cfgGy = 20) ∧
    (3 ≤ 97 ∧ (4 * 0 ^ 3 + 27 * 7 ^ 2) % 97 ≠ 0 ∧ ¬LiesOn ⟨0, 7, 97⟩ 13 20 ∧ ¬LiesOn ⟨0, 7, 97⟩ 110 19) := by
  unfold LiesOn
  decide

/-- An error completion with a curve loaded. -/
theorem witness_CurveValidIsClearedOnlyByReset :
    let s := withTurns [.engine] (inFlight .pdbl ec15 (points 2 3 0 0 0))
    ∃ t, step s = .next t ∧ (∀ rest, s.turns ≠ .reset :: rest) ∧ s.curve.valid = true ∧ s.status.busy = true ∧
      t.status.busy = false ∧ t.status.err ≠ 0 :=
  ⟨_, rfl, by rintro rest ⟨⟩, rfl, rfl, by decide +kernel, by decide +kernel⟩

/-- A CURVE_LOAD by a prescribed turn and by the default one, and a reset. -/
theorem witness_OnlyCurveLoadAndResetChangeTheCurve :
    (∀ ts ∈ [[Turn.engine], []], nextIs (step (withTurns ts (inFlight .curveLoad ec2 (staged 0 7 97 79 13 19))))
      (fun t => t.curve ≠ ec2) = true) ∧
    nextIs (step (withTurns [.reset] (inFlight .curveLoad ec2 (staged 0 7 97 79 13 19))))
      (fun t => t.curve ≠ ec2) = true := by decide +kernel

theorem witness_PointCommandsNeedACurve :
    IsPointCommand .pdbl ∧ IsPointCommand .padd ∧ IsPointCommand .pmul ∧
    (inFlight .pmul noCurve (points 13 19 0 0 1)).latch.snapshot.curveValid = false :=
  ⟨.inl rfl, .inr (.inl rfl), .inr (.inr rfl), rfl⟩

/-- A with x = P, the least x out of range; and a good A with a bad B. -/
theorem witness_OffCurveOperandsAreRejected :
    (let s := inFlight .pdbl ec1 (points 97 19 0 0 0)
     s.latch.snapshot.curveValid = true ∧ ¬Passes s.latch.snapshot.curve s.latch.snapshot.ops.ptA) ∧
    (let s := inFlight .padd ec1 (points 13 19 13 20 0)
     s.latch.snapshot.curveValid = true ∧ Passes s.latch.snapshot.curve s.latch.snapshot.ops.ptA ∧
       (Instr.padd = .padd ∧ ¬Passes s.latch.snapshot.curve s.latch.snapshot.ops.ptB)) := by
  refine ⟨⟨rfl, ?_⟩, rfl, ?_, rfl, ?_⟩
  · show ¬LiesOn ⟨0, 7, 97⟩ 97 19
    unfold LiesOn; decide
  · show LiesOn ⟨0, 7, 97⟩ 13 19
    unfold LiesOn; decide
  · show ¬LiesOn ⟨0, 7, 97⟩ 13 20
    unfold LiesOn; decide

/-- DB3 and DB4. -/
theorem witness_PdblOfInfinityOrVerticalTangent :
    (let s := inFlight .pdbl ec1 { points 13 20 0 0 0 with aInf := true }
     s.latch.snapshot.curveValid = true ∧ s.latch.snapshot.ops.ptA = .inf) ∧
    (let s := inFlight .pdbl ec2 (points 96 0 0 0 0)
     s.latch.snapshot.curveValid = true ∧ s.latch.snapshot.ops.ptA = .aff 96 0 ∧
       LiesOn s.latch.snapshot.curve 96 0) := by
  unfold LiesOn
  decide

/-- DB5: 12 · 89 ≡ 1 (mod 97). -/
theorem witness_PdblTangentConstruction :
    let s := inFlight .pdbl ec2 (points 3 6 0 0 0)
    let c : FieldCurve := ⟨2, 3, 97⟩
    c = s.latch.snapshot.curve ∧ s.latch.snapshot.curveValid = true ∧ s.latch.snapshot.ops.ptA = .aff 3 6 ∧
      LiesOn c 3 6 ∧ 6 ≠ 0 ∧ 2 * 6 * 89 % c.p = 1 := by
  unfold LiesOn
  decide

/-- AD9, AD10 and AD11. -/
theorem witness_PaddIdentityLaws :
    let c : FieldCurve := ⟨0, 7, 97⟩
    (Passes c (.aff 13 19) ∧ Passes c .inf) ∧
    (let s := inFlight .padd ec1 { points 0 0 13 19 0 with aInf := true }
     c = s.latch.snapshot.curve ∧ s.latch.snapshot.curveValid = true ∧
       s.latch.snapshot.ops.ptA = .inf ∧ s.latch.snapshot.ops.ptB = .aff 13 19) ∧
    (let s := inFlight .padd ec1 { points 13 19 0 0 0 with bInf := true }
     s.latch.snapshot.ops.ptA = .aff 13 19 ∧ s.latch.snapshot.ops.ptB = .inf) ∧
    (let s := inFlight .padd ec1 { points 13 19 0 0 0 with aInf := true, bInf := true }
     s.latch.snapshot.ops.ptA = .inf ∧ s.latch.snapshot.ops.ptB = .inf) := by
  refine ⟨⟨?_, trivial⟩, by decide, by decide, by decide⟩
  show LiesOn ⟨0, 7, 97⟩ 13 19
  unfold LiesOn
  decide

/-- AD3. -/
theorem witness_PaddOfEqualPointsDoubles :
    let s := inFlight .padd ec1 (points 13 19 13 19 0)
    s.latch.snapshot.ops.ptA = s.latch.snapshot.ops.ptB := by decide

/-- AD4. -/
theorem witness_PaddOfInversePointsIsInfinity :
    let s := inFlight .padd ec1 (points 13 19 13 78 0)
    let c : FieldCurve := ⟨0, 7, 97⟩
    c = s.latch.snapshot.curve ∧ s.latch.snapshot.curveValid = true ∧ s.latch.snapshot.ops.ptA = .aff 13 19 ∧
      s.latch.snapshot.ops.ptB = .aff 13 78 ∧ LiesOn c 13 19 ∧ LiesOn c 13 78 ∧ 19 ≠ 78 := by
  unfold LiesOn
  decide

/-- AD1 (14 · 7 ≡ 1 mod 97) and AD2 (83 · 90 ≡ 1 mod 97). -/
theorem witness_PaddSecantConstruction :
    let c : FieldCurve := ⟨0, 7, 97⟩
    (LiesOn c 13 19 ∧ LiesOn c 27 75 ∧ 13 ≠ 27) ∧
    (let s := inFlight .padd ec1 (points 13 19 27 75 0)
     c = s.latch.snapshot.curve ∧ s.latch.snapshot.curveValid = true ∧ s.latch.snapshot.ops.ptA = .aff 13 19 ∧
       s.latch.snapshot.ops.ptB = .aff 27 75 ∧ (27 + (c.p - 13)) * 7 % c.p = 1) ∧
    (let s := inFlight .padd ec1 (points 27 75 13 19 0)
     s.latch.snapshot.ops.ptA = .aff 27 75 ∧ s.latch.snapshot.ops.ptB = .aff 13 19 ∧
       (13 + (c.p - 27)) * 90 % c.p = 1) := by
  unfold LiesOn
  decide

/-- DB15 and AD16. -/
theorem witness_MissingInverseIsAnInvariantViolation :
    let s := inFlight .padd ec15 (points 2 3 5 6 0)
    let c : FieldCurve := ⟨0, 1, 15⟩
    c = s.latch.snapshot.curve ∧ s.latch.snapshot.curveValid = true ∧ s.latch.snapshot.ops.ptA = .aff 2 3 ∧
      LiesOn c 2 3 ∧ (3 ≠ 0 ∧ Nat.gcd (2 * 3) c.p ≠ 1) ∧
      (s.latch.snapshot.ops.ptB = .aff 5 6 ∧ LiesOn c 5 6 ∧ 2 ≠ 5 ∧ Nat.gcd (5 + (c.p - 2)) c.p ≠ 1) := by
  unfold LiesOn
  decide +kernel

/-- Over the composite P = 15, where the addition of these two raises. -/
theorem witness_PointAdditionCommutes : Passes ⟨0, 1, 15⟩ (.aff 2 3) ∧ Passes ⟨0, 1, 15⟩ (.aff 5 6) := by
  show LiesOn ⟨0, 1, 15⟩ 2 3 ∧ LiesOn ⟨0, 1, 15⟩ 5 6
  unfold LiesOn
  decide

/-- DB5 and AD1; over the composite P = 15, DB7's ladder, and the doubling of a point in range but off the curve. -/
theorem witness_PointResultsAreReduced :
    (Reduced ⟨0, 1, 15⟩ (.aff 0 1) ∧ ladder ⟨0, 1, 15⟩ (.aff 0 1) 2 = .ok (.aff 0 14)) ∧
    (Reduced ⟨0, 7, 97⟩ (.aff 13 19) ∧ Reduced ⟨0, 7, 97⟩ (.aff 27 75)) ∧
    (∃ x y, pointDouble ⟨0, 1, 15⟩ (.aff 1 1) = .ok (.aff x y)) ∧
    (Passes ⟨2, 3, 97⟩ (.aff 3 6) ∧ pointDouble ⟨2, 3, 97⟩ (.aff 3 6) = .ok (.aff 80 10)) ∧
    (Passes ⟨0, 7, 97⟩ (.aff 13 19) ∧ Passes ⟨0, 7, 97⟩ (.aff 27 75) ∧
      pointAdd ⟨0, 7, 97⟩ (.aff 13 19) (.aff 27 75) = .ok (.aff 73 32)) := by
  refine ⟨⟨by unfold Reduced; decide, by decide +kernel⟩, ⟨by unfold Reduced; decide, by unfold Reduced; decide⟩,
    ⟨_, _, rfl⟩, ?_⟩
  show (LiesOn ⟨2, 3, 97⟩ 3 6 ∧ _) ∧ LiesOn ⟨0, 7, 97⟩ 13 19 ∧ LiesOn ⟨0, 7, 97⟩ 27 75 ∧ _
  unfold LiesOn
  decide +kernel

/-- EC1, and the smallest prime that CURVE_LOAD takes. -/
theorem witness_PrimeModulusClosure :
    (Nat.Prime 97 ∧ 3 ≤ 97 ∧ Passes ⟨0, 7, 97⟩ (.aff 13 19) ∧ Passes ⟨0, 7, 97⟩ (.aff 27 75)) ∧
    (Nat.Prime 3 ∧ 3 ≤ 3 ∧ Passes ⟨1, 0, 3⟩ (.aff 0 0) ∧ Passes ⟨1, 0, 3⟩ .inf) := by
  refine ⟨⟨by norm_num, by decide, ?_, ?_⟩, by norm_num, by decide, ?_, trivial⟩
  · show LiesOn ⟨0, 7, 97⟩ 13 19
    unfold LiesOn; decide
  · show LiesOn ⟨0, 7, 97⟩ 27 75
    unfold LiesOn; decide
  · show LiesOn ⟨1, 0, 3⟩ 0 0
    unfold LiesOn; decide

/-- K11 and K12: the least and the greatest pattern with bit KW−1 set. -/
theorem witness_PmulRejectsNegativeScalars :
    ∀ k ∈ [0x8000, 0xFFFF],
      let s := inFlight .pmul ec1 { points 0 0 0 0 k with aInf := true }
      s.latch.snapshot.curveValid = true ∧ s.latch.snapshot.ops.ptA = .inf ∧
        Passes s.latch.snapshot.curve .inf ∧ s.params.wf = true ∧ s.latch.snapshot.ops.k < 2 ^ s.params.kw ∧
        2 ^ (s.params.kw - 1) ≤ s.latch.snapshot.ops.k := by
  unfold Passes
  decide

/-- K1, K2 and K9, on G. -/
theorem passes_G (k : Nat) :
    Passes (inFlight .pmul ec1 (points 13 19 0 0 k)).latch.snapshot.curve
      (inFlight .pmul ec1 (points 13 19 0 0 k)).latch.snapshot.ops.ptA := by
  show LiesOn ⟨0, 7, 97⟩ 13 19
  unfold LiesOn
  decide

theorem witness_PmulByZeroAndOne :
    ∀ k ∈ [0, 1], let s := inFlight .pmul ec1 (points 13 19 0 0 k)
      s.latch.snapshot.curveValid = true ∧ Passes s.latch.snapshot.curve s.latch.snapshot.ops.ptA ∧
        s.params.wf = true ∧ s.latch.snapshot.ops.k = k := fun k _ => ⟨rfl, passes_G k, by rfl, rfl⟩

theorem witness_PmulCompletesWithTheLadder :
    let s := inFlight .pmul ec1 (points 13 19 0 0 0x7FFF)
    s.latch.snapshot.curveValid = true ∧ Passes s.latch.snapshot.curve s.latch.snapshot.ops.ptA ∧
      s.params.wf = true ∧ s.latch.snapshot.ops.k < 2 ^ (s.params.kw - 1) :=
  ⟨rfl, passes_G _, by decide, by decide⟩

theorem witness_LadderFollowsTheBinaryDigits : 1 ≤ 1 ∧ 1 ≤ 0x7FFF := by decide

theorem witness_LadderStepCounts : 1 ≤ 1 ∧ 1 ≤ 20 ∧ 0 ≤ 1 ∧ 0 = 0 := by decide

theorem witness_LadderIsRepeatedAddition :
    (Nat.Prime 97 ∧ 3 ≤ 97 ∧ discriminant ⟨0, 7, 97⟩ ≠ 0 ∧ Passes ⟨0, 7, 97⟩ (.aff 13 19)) ∧
    (Nat.Prime 3 ∧ 3 ≤ 3 ∧ discriminant ⟨1, 0, 3⟩ ≠ 0 ∧ Passes ⟨1, 0, 3⟩ (.aff 0 0)) := by
  refine ⟨⟨by norm_num, by decide, by decide +kernel, ?_⟩, by norm_num, by decide, by decide +kernel, ?_⟩
  · show LiesOn ⟨0, 7, 97⟩ 13 19
    unfold LiesOn; decide
  · show LiesOn ⟨1, 0, 3⟩ 0 0
    unfold LiesOn; decide

/-- K16: G2 of EC2 has order 5, the N of that curve. -/
theorem witness_LadderIsPeriodic :
    Nat.Prime 97 ∧ 3 ≤ 97 ∧ discriminant ⟨2, 3, 97⟩ ≠ 0 ∧ Passes ⟨2, 3, 97⟩ (.aff 3 6) ∧ 1 ≤ 5 ∧
      ladder ⟨2, 3, 97⟩ (.aff 3 6) 5 = .ok .inf := by
  refine ⟨by norm_num, by decide, by decide +kernel, ?_, by decide, by decide +kernel⟩
  show LiesOn ⟨2, 3, 97⟩ 3 6
  unfold LiesOn
  decide

/-- Each form of statement at pc, on the script's turn; for the two that make a transaction, that it completes. -/
theorem witness_ScriptStatementsDoWhatTheySay :
    let at_ (st : Stmt) : State := { withTurns [.script] State.reset with script := ⟨[st, .stop], 0, .zero⟩ }
    (∀ st ∈ [Stmt.andi .t0 .t1 1, .addi .t0 .t1 1, .bnez .t0 1, .beqz .t0 1, .stop, .swImm (.named .cmd 0) 3,
      .swTmp (.offset 0x0401) .t2, .lw .t3 (.named .status 0)],
      (at_ st).turns = .script :: [] ∧ (at_ st).script.prog[(at_ st).script.pc]? = some st) ∧
    (∃ t, step { at_ (.swImm (.named .cmd 0) 3) with
      turns := .host (.write ((at_ (.swImm (.named .cmd 0) 3)).params.base + (Loc.named .cmd 0).off) 4 3) :: [] } =
        .next t) ∧
    (∃ t v err, step { at_ (.lw .t3 (.named .status 0)) with
        turns := .host (.read ((at_ (.lw .t3 (.named .status 0))).params.base + (Loc.named .status 0).off) 4) :: [] } =
          .next t ∧
      t.trace = (at_ (.lw .t3 (.named .status 0))).trace ++
        [⟨.read ((at_ (.lw .t3 (.named .status 0))).params.base + (Loc.named .status 0).off) 4, ⟨some v, err⟩⟩]) :=
  ⟨by decide, ⟨_, rfl⟩, ⟨_, _, _, rfl, rfl⟩⟩

end Sys2Proof.Tests
end

/-! # Proofs of the family 10_state: the state, its invariant, and the frames of the agents -/

namespace Sys2Proof.Laws

open Sys2Proof.Machine

/-! ## The inverse and the checks of a point command, by their outcome -/

/-- An inverse is reduced, and it is one: the Bezout invariant of R71 at the loop's end. -/
theorem modInv_eq_ok {p : Nat} {value : Int} {u : Nat} (h : modInv p value = .ok u) :
    2 ≤ p ∧ u < p ∧ value * u ≡ 1 [ZMOD p] := by
  unfold modInv at h
  split at h
  · cases h
  dsimp only at h
  split at h
  · cases h
  cases h
  have hp : 0 < p := by omega
  rename_i hr
  have hb := (bezout_run p (bezout_start value hp)).1
  rw [Decidable.not_not.1 hr, mul_comm] at hb
  refine ⟨by omega, zmod_lt _ hp, ?_⟩
  rw [zmod_cast _ hp]
  exact ((Int.mod_modEq _ _).mul_left value).trans hb

/-- A value coprime to the modulus has an inverse (R73). -/
theorem modInv_of_coprime {p : Nat} {value : Int} (hp : 2 ≤ p) (h : Nat.gcd (zmod value p) p = 1) :
    ∃ u, modInv p value = .ok u := by
  have hlt : zmod value p < p := zmod_lt value (by omega)
  have hend := euclidRun_ends p (euclidStart p value) (le_of_lt hlt)
  have hgcd := euclidRun_gcd p (euclidStart p value)
  rw [hend, Nat.gcd_zero_right] at hgcd
  have hr : (euclidRun p (euclidStart p value)).r0 = 1 := hgcd.trans ((Nat.gcd_comm _ _).trans h)
  exact ⟨zmod (euclidRun p (euclidStart p value)).t0 p, by simp [modInv, hr, Nat.lt_of_succ_le hp]⟩

/-- Inside a point operation the inverse is the same one; only the error's name differs (R74). -/
theorem modInvInternal_eq_ok {p : Nat} {d : Int} {u : Nat} : modInvInternal p d = .ok u ↔ modInv p d = .ok u := by
  unfold modInvInternal
  split <;> rename_i h <;> simp [h]

theorem checkPoints_eq_ok {c : FieldCurve} {pts : List Point} :
    checkPoints c pts = .ok () ↔ ∀ pt ∈ pts, onCurve c pt = true := by
  induction pts with
  | nil => simp [checkPoints]
  | cons pt pts ih => cases h : onCurve c pt <;> simp [checkPoints, checkPoint, h, ih]

/-- A point command gets past its first checks (R106) just when a curve is loaded and every operand is on it. -/
theorem onLoadedCurve_eq_ok {q : Snapshot} {pts : List Point} {rest : Except ErrorKind Writes} {ws : Writes} :
    onLoadedCurve q pts rest = .ok ws ↔
      q.curveValid = true ∧ (∀ pt ∈ pts, onCurve q.curve pt = true) ∧ rest = .ok ws := by
  rw [← checkPoints_eq_ok]
  cases hv : q.curveValid <;> cases hc : checkPoints q.curve pts <;> simp [onLoadedCurve, hv, hc]

/-- What follows the first checks, once they are passed. -/
theorem onLoadedCurve_of_passed {q : Snapshot} {pts : List Point} (rest : Except ErrorKind Writes)
    (hv : q.curveValid = true) (hon : ∀ pt ∈ pts, onCurve q.curve pt = true) :
    onLoadedCurve q pts rest = rest := by
  simp [onLoadedCurve, hv, checkPoints_eq_ok.2 hon]

theorem pointWrites_eq_ok {o : Except ErrorKind Point} {ws : Writes} :
    pointWrites o = .ok ws ↔ ∃ pt, o = .ok pt ∧ ws = .point pt := by
  cases o <;> simp [pointWrites, eq_comm]

/-- A curve that CURVE_LOAD accepts (R77, R81): reduced, non-singular, with G on it. -/
theorem curveCheck_eq_ok {a b p n gx gy : Nat} {c : LoadedCurve} (h : curveCheck a b p n gx gy = .ok c) :
    3 ≤ p ∧ c = ⟨true, a % p, b % p, p, n, gx, gy⟩ ∧ discriminant c.field ≠ 0 ∧
      onCurve c.field (.aff gx gy) = true := by
  unfold curveCheck at h
  simp only [zmod_natCast] at h
  split at h
  · cases h
  split at h
  · cases h
  split at h
  · cases h
  cases h
  exact ⟨by omega, rfl, by assumption, by simpa [LoadedCurve.field] using ‹¬(!onCurve _ _) = true›⟩

/-! ## Point results are reduced (R88, R93) -/

open Sys2Proof.Machine.Claim

theorem reduced_of_onCurve {c : FieldCurve} {pt : Point} (h : onCurve c pt = true) : Reduced c pt := by
  cases pt with
  | inf => trivial
  | aff x y =>
    simp only [onCurve, Bool.and_eq_true, decide_eq_true_eq] at h
    exact h.1

theorem chord_reduced {c : FieldCurve} (m x1 y1 x2 : Nat) (hp : 0 < c.p) : Reduced c (chord c.p m x1 y1 x2) :=
  ⟨zmod_lt _ hp, zmod_lt _ hp⟩

/-- A modulus for which the inverse of a point operation exists is positive. -/
theorem modInvInternal_pos {p : Nat} {d : Int} {u : Nat} (h : modInvInternal p d = .ok u) : 0 < p := by
  obtain ⟨hp, -, -⟩ := modInv_eq_ok (modInvInternal_eq_ok.1 h)
  omega

theorem pointDouble_reduced {c : FieldCurve} {pt r : Point} (h : pointDouble c pt = .ok r) : Reduced c r := by
  cases pt with
  | inf => cases h; trivial
  | aff x y =>
    simp only [pointDouble] at h
    split at h
    · cases h; trivial
    · split at h <;> cases h
      exact chord_reduced _ _ _ _ (modInvInternal_pos ‹_›)

theorem pointAdd_reduced {c : FieldCurve} {p1 p2 r : Point} (h1 : Reduced c p1) (h2 : Reduced c p2)
    (h : pointAdd c p1 p2 = .ok r) : Reduced c r := by
  unfold pointAdd at h
  split at h
  · cases h; exact h2
  · cases h; exact h1
  · split at h
    · exact pointDouble_reduced h
    split at h
    · cases h; trivial
    · split at h <;> cases h
      exact chord_reduced _ _ _ _ (modInvInternal_pos ‹_›)

/-- What every group operation of the ladder keeps on the accumulator, its run keeps. -/
theorem runOps_keeps {c : FieldCurve} {pt : Point} {Q : Point → Prop}
    (hop : ∀ (op : GroupOp) (acc r : Point), Q acc → op.apply c pt acc = .ok r → Q r) (ops : List GroupOp)
    {acc r : Point} (hacc : Q acc) (h : runOps c pt ops acc = .ok r) : Q r := by
  induction ops generalizing acc with
  | nil => cases h; exact hacc
  | cons op ops ih =>
    unfold runOps at h
    split at h
    · cases h
    · exact ih (hop op _ _ hacc ‹_›) h

theorem ladder_reduced {c : FieldCurve} {pt r : Point} {k : Nat} (hpt : Reduced c pt) (h : ladder c pt k = .ok r) :
    Reduced c r := by
  unfold ladder at h
  split at h
  · cases h; trivial
  · refine runOps_keeps (fun op acc r hacc h => ?_) _ hpt h
    cases op with
    | double => exact pointDouble_reduced h
    | addPoint => exact pointAdd_reduced hacc hpt h

end Sys2Proof.Laws

namespace Sys2Proof.Machine

open Sys2Proof.Laws Sys2Proof.Machine.Claim

/-! ## What a command that succeeds writes -/

/-- A successful MODINV writes a reduced inverse (R72, R73). -/
theorem evalModinv_eq_ok {q : Snapshot} {ws : Writes} (h : evalModinv q = .ok ws) :
    ∃ v, ws = .inverse v ∧ v < q.ops.invP := by
  unfold evalModinv at h
  split at h
  · cases h
  · cases h
    obtain ⟨-, hv, -⟩ := modInv_eq_ok ‹_›
    exact ⟨_, rfl, hv⟩

/-- A successful CURVE_LOAD writes the curve that passed CurveCheck (R80). -/
theorem evalCurveLoad_eq_ok {q : Snapshot} {ws : Writes} (h : evalCurveLoad q = .ok ws) :
    ∃ c, ws = .curve c ∧
      curveCheck q.ops.cfgA q.ops.cfgB q.ops.cfgP q.ops.cfgN q.ops.cfgGx q.ops.cfgGy = .ok c := by
  unfold evalCurveLoad at h
  split at h
  · cases h
  · cases h
    exact ⟨_, rfl, ‹_›⟩

/-- A successful point command ran on a loaded curve and writes a point with reduced coordinates (R88, R93). -/
theorem pointCommand_eq_ok {pr : Params} {q : Snapshot} {i : Instr} {ws : Writes} (hi : IsPointCommand i)
    (h : commandOutcome pr q i = .ok ws) : q.curveValid = true ∧ ∃ pt, ws = .point pt ∧ Reduced q.curve pt := by
  rcases hi with rfl | rfl | rfl
  · obtain ⟨hv, -, h⟩ := onLoadedCurve_eq_ok.1 h
    obtain ⟨pt, hpt, rfl⟩ := pointWrites_eq_ok.1 h
    exact ⟨hv, pt, rfl, pointDouble_reduced hpt⟩
  · obtain ⟨hv, hon, h⟩ := onLoadedCurve_eq_ok.1 h
    obtain ⟨pt, hpt, rfl⟩ := pointWrites_eq_ok.1 h
    have hA : Reduced q.curve q.ops.ptA := reduced_of_onCurve (hon _ (by simp))
    have hB : Reduced q.curve q.ops.ptB := reduced_of_onCurve (hon _ (by simp))
    exact ⟨hv, pt, rfl, pointAdd_reduced hA hB hpt⟩
  · obtain ⟨hv, hon, h⟩ := onLoadedCurve_eq_ok.1 h
    split at h
    · cases h
    obtain ⟨pt, hpt, rfl⟩ := pointWrites_eq_ok.1 h
    exact ⟨hv, pt, rfl, ladder_reduced (reduced_of_onCurve (hon _ (by simp))) hpt⟩

/-! ## The invariant, operation by operation -/

/-- The writes of a successful command that keep the ranges of R38 and the curve facts of R26. -/
def Writes.Sound (pr : Params) : Writes → Prop
  | .inverse v => v < 2 ^ pr.w
  | .curve c => c.InRange pr ∧ c.Sound
  | .point .inf => True
  | .point (.aff x y) => x < 2 ^ pr.w ∧ y < 2 ^ pr.w

theorem Operands.zero_inRange (pr : Params) : Operands.zero.InRange pr := by
  intro r
  have hz : Operands.zero.get r = 0 := by cases r <;> rfl
  rw [hz]
  exact Nat.two_pow_pos _

theorem Operands.set_inRange {pr : Params} {o : Operands} (h : o.InRange pr) (r : OpReg) (v : Nat) :
    (o.set r (v % 2 ^ r.width pr)).InRange pr := by
  intro r'
  by_cases hr : r' = r
  · subst hr
    rw [Operands.get_set_same]
    exact Nat.mod_lt _ (Nat.two_pow_pos _)
  · rw [Operands.get_set_other _ _ hr]
    exact h r'

theorem Operands.writeFlags_inRange {pr : Params} {o : Operands} (h : o.InRange pr) (d : Word) :
    (o.writeFlags d).InRange pr := by
  intro r
  rw [Operands.get_writeFlags]
  exact h r

/-- The invariant speaks of the registers alone. -/
theorem SameRegisters.inv {s u : State} (h : SameRegisters s u) (hs : s.Inv) : u.Inv := by
  cases s
  cases u
  obtain ⟨rfl, rfl, rfl, rfl, rfl, rfl⟩ := h
  obtain ⟨hp, ho, hc, hcs, hr, hst, hl⟩ := hs
  exact ⟨hp, ho, hc, hcs, hr, hst, hl⟩

theorem State.inv_init {pr : Params} (h : pr.wf = true) : (State.init pr).Inv where
  params_wf := h
  ops_inRange := Operands.zero_inRange pr
  curve_inRange := by simp [State.init, LoadedCurve.InRange, LoadedCurve.zero]
  curve_sound := by simp [State.init, LoadedCurve.Sound, LoadedCurve.zero]
  result_inRange := by simp [State.init, Results.InRange, Results.zero]
  status_legal := by simp [State.init, Status.Legal, Status.zero]
  latch_sound := by
    refine ⟨?_, Operands.zero_inRange pr, ?_⟩ <;> simp [State.init, Status.zero, Latch.empty]

theorem State.Inv.resetBlock {s : State} (h : s.Inv) : s.resetBlock.Inv :=
  have hsame : SameRegisters (State.init s.params) s.resetBlock := ⟨rfl, rfl, rfl, rfl, rfl, rfl⟩
  hsame.inv (State.inv_init h.params_wf)

theorem State.Inv.setTurns {s : State} (h : s.Inv) (rest : List Turn) : (s.setTurns rest).Inv :=
  have hsame : SameRegisters s (s.setTurns rest) := ⟨rfl, rfl, rfl, rfl, rfl, rfl⟩
  hsame.inv h

/-- A change of the operand registers alone: the latch has its own copy of them (R29). -/
theorem State.Inv.setOps {s : State} {o : Operands} (h : s.Inv) (ho : o.InRange s.params) : (s.setOps o).Inv :=
  { h with ops_inRange := ho }

/-- A change of DROPPED alone. -/
theorem State.Inv.setDropped {s : State} (h : s.Inv) (b : Bool) : (s.setStatus { s.status with dropped := b }).Inv :=
  { h with
    status_legal := h.status_legal
    latch_sound := h.latch_sound }

theorem busyOp_ne_empty (w : Word) : busyOp w ≠ .empty := by
  unfold busyOp
  split <;> simp

theorem State.Inv.accept {s : State} (h : s.Inv) (w : Word) : (s.accept w).Inv :=
  { h with
    status_legal := by simp [State.accept, Status.Legal, Status.accepted]
    latch_sound := by
      refine ⟨?_, h.ops_inRange, fun _ => ⟨rfl, rfl⟩⟩
      simp [State.accept, Status.accepted, busyOp_ne_empty] }

/-- An aligned write of the host, whatever the register (R46), keeps the invariant. -/
theorem State.Inv.writeWord {s : State} (h : s.Inv) (n j : Nat) (d : Word) : (s.writeWord n j d).Inv := by
  rcases writeWord_cases s n j d with
    e | ⟨-, -, -, e⟩ | ⟨-, -, -, e⟩ | ⟨-, -, e⟩ | ⟨-, -, e⟩ | ⟨r, -, -, e⟩ <;> rw [e]
  · exact h
  · exact h.setDropped true
  · exact h.accept d
  · unfold Status.afterWrite
    split
    · exact h.setDropped false
    · exact h
  · exact h.setOps (Operands.writeFlags_inRange h.ops_inRange d)
  · exact h.setOps (Operands.set_inRange h.ops_inRange r _)

/-- The latch after a completion: empty, and BUSY is 0 (log entry 5). -/
theorem latchSound_complete (s : State) (o : Except ErrorKind Writes) : (s.complete o).LatchSound := by
  refine ⟨by simp [Latch.empty], ?_, by simp⟩
  rw [complete_latch]
  exact Operands.zero_inRange _

theorem statusLegal_complete (s : State) (o : Except ErrorKind Writes) : (s.complete o).status.Legal := by
  refine ⟨by simp, by simp, ?_⟩
  cases o with
  | error e => exact e.code_le_seven
  | ok ws => cases ws <;> exact Nat.zero_le 7

/-- A completion keeps the invariant if its writes, should it succeed, are sound. -/
theorem State.Inv.complete {s : State} {o : Except ErrorKind Writes} (h : s.Inv)
    (ho : ∀ ws, o = .ok ws → ws.Sound s.params) : (s.complete o).Inv := by
  have hst := statusLegal_complete s o
  have hl := latchSound_complete s o
  obtain ⟨hp, hops, hc, hcs, ⟨hx, hy, hinv, hinf⟩, -, -⟩ := h
  rcases o with e | (v | c | (_ | ⟨x, y⟩))
  · exact ⟨hp, hops, hc, hcs, ⟨hx, hy, hinv, hinf⟩, hst, hl⟩
  · exact ⟨hp, hops, hc, hcs, ⟨hx, hy, ho _ rfl, hinf⟩, hst, hl⟩
  · exact ⟨hp, hops, (ho _ rfl).1, (ho _ rfl).2, ⟨hx, hy, hinv, hinf⟩, hst, hl⟩
  · exact ⟨hp, hops, hc, hcs, ⟨Nat.two_pow_pos _, Nat.two_pow_pos _, hinv, fun _ => ⟨rfl, rfl⟩⟩, hst, hl⟩
  · exact ⟨hp, hops, hc, hcs, ⟨(ho _ rfl).1, (ho _ rfl).2, hinv, nofun⟩, hst, hl⟩

/-- The curve that CURVE_LOAD loads has the facts of R26, and in-range operands give an in-range curve. -/
theorem sound_of_curveCheck {pr : Params} {o : Operands} {c : LoadedCurve} (ho : o.InRange pr)
    (h : curveCheck o.cfgA o.cfgB o.cfgP o.cfgN o.cfgGx o.cfgGy = .ok c) : (Writes.curve c).Sound pr := by
  obtain ⟨hp, rfl, hdisc, hon⟩ := curveCheck_eq_ok h
  have ha : o.cfgA % o.cfgP < o.cfgP := Nat.mod_lt _ (by omega)
  have hb : o.cfgB % o.cfgP < o.cfgP := Nat.mod_lt _ (by omega)
  have hP : o.cfgP < 2 ^ pr.w := ho .cfgP
  exact ⟨⟨ha.trans hP, hb.trans hP, hP, ho .cfgN, ho .cfgGx, ho .cfgGy⟩, hp, ha, hb, hdisc, hon⟩

/-- The command in the latch of a busy block writes only sound values. -/
theorem sound_of_commandOutcome {s : State} {i : Instr} {ws : Writes} (h : s.Inv) (hb : s.status.busy = true)
    (hw : commandOutcome s.params s.latch.snapshot i = .ok ws) : ws.Sound s.params := by
  obtain ⟨-, hops, hcur⟩ := h.latch_sound
  obtain ⟨hvalid, hcurve⟩ := hcur hb
  have point : IsPointCommand i → ws.Sound s.params := by
    intro hi
    obtain ⟨-, pt, rfl, hred⟩ := pointCommand_eq_ok hi hw
    obtain ⟨-, -, hP, -⟩ := h.curve_inRange
    rw [hcurve] at hred
    cases pt with
    | inf => trivial
    | aff x y => exact ⟨hred.1.trans hP, hred.2.trans hP⟩
  cases i with
  | modinv =>
    obtain ⟨v, rfl, hv⟩ := evalModinv_eq_ok hw
    exact hv.trans (hops .invP)
  | curveLoad =>
    obtain ⟨c, rfl, hc⟩ := evalCurveLoad_eq_ok hw
    exact sound_of_curveCheck hops hc
  | pdbl => exact point (.inl rfl)
  | padd => exact point (.inr (.inl rfl))
  | pmul => exact point (.inr (.inr rfl))

/-- The engine's completion keeps the invariant. -/
theorem State.Inv.engineOutcome {s : State} {o : Except ErrorKind Writes} (h : s.Inv) (hb : s.status.busy = true)
    (ho : EngineOutcome s o) : (s.complete o).Inv := by
  refine h.complete fun ws hws => ?_
  rcases ho with ⟨i, -, rfl⟩ | ⟨-, rfl⟩
  · exact sound_of_commandOutcome h hb hws
  · cases hws

/-- Settles O7: the invariant over what a step can do, agent by agent. -/
theorem stepKeepsInvariant : Obligations.StepKeepsInvariant := by
  intro s t hs h
  rcases step_cases h with hsame | ⟨-, n, j, d, hsame⟩ | ⟨-, hb, -, o, rest, rfl, ho⟩ | ⟨rest, -, rfl⟩
  · exact hsame.inv hs
  · exact hsame.inv (hs.writeWord n j d)
  · exact (hs.setTurns rest).engineOutcome hb ho
  · exact (hs.setTurns rest).resetBlock

end Sys2Proof.Machine

namespace Sys2Proof.Laws

open Sys2Proof.Machine Sys2Proof.Machine.Claim

/-! ## The curve equation in the ring of residues mod P -/

/-- `mod` of R8 does not change the residue class. -/
theorem residue_zmod (a : Int) {m : Nat} (h : 0 < m) : ((zmod a m : Nat) : ZMod m) = (a : ZMod m) := by
  rw [← Int.cast_natCast, zmod_cast a h, ZMod.intCast_mod]

theorem zmod_eq_zero_iff (a : Int) {m : Nat} (h : 0 < m) : zmod a m = 0 ↔ (a : ZMod m) = 0 := by
  rw [← Int.natCast_eq_zero, zmod_cast a h, ← Int.dvd_iff_emod_eq_zero, CharP.intCast_eq_zero_iff (ZMod m) m]

/-- The Weierstrass equation of a pair of coordinates, as residues (R12). -/
def SatisfiesCurve (c : FieldCurve) (x y : ZMod c.p) : Prop := y ^ 2 = x ^ 3 + c.a * x + c.b

theorem liesOn_iff_satisfiesCurve (c : FieldCurve) (x y : Nat) :
    LiesOn c x y ↔ x < c.p ∧ y < c.p ∧ SatisfiesCurve c x y := by
  have h := ZMod.natCast_eq_natCast_iff' (y ^ 2) (x ^ 3 + c.a * x + c.b) c.p
  push_cast at h
  rw [SatisfiesCurve, h]
  rfl

/-- `OnCurve` of R12 is the equation in plain arithmetic. -/
theorem onCurve_iff_passes (c : FieldCurve) (pt : Point) : onCurve c pt = true ↔ Passes c pt := by
  cases pt with
  | inf => exact ⟨fun _ => trivial, fun _ => rfl⟩
  | aff x y =>
    rcases Nat.eq_zero_or_pos c.p with hp | hp
    · simp [onCurve, Passes, LiesOn, hp]
    · have heq : zmod ((y : Int) ^ 2 - ((x : Int) ^ 3 + c.a * x + c.b)) c.p = 0 ↔ SatisfiesCurve c x y := by
        rw [zmod_eq_zero_iff _ hp, SatisfiesCurve, ← sub_eq_zero (a := (y : ZMod c.p) ^ 2)]
        push_cast
        rfl
      simp only [onCurve, Passes, liesOn_iff_satisfiesCurve, Bool.and_eq_true, decide_eq_true_eq, heq, and_assoc]

/-! ## The chord-and-tangent construction stays on the curve (R84, R89) -/

/-- The line of slope `m` through two curve points meets the curve again at `x = m² − x1 − x2`. The hypothesis on `u`
is that `x2 − x1` is a unit: the modulus need not be prime. -/
theorem secant_satisfiesCurve {c : FieldCurve} {x1 y1 x2 y2 u m : ZMod c.p} (h1 : SatisfiesCurve c x1 y1)
    (h2 : SatisfiesCurve c x2 y2) (hu : (x2 - x1) * u = 1) (hm : m = (y2 - y1) * u) :
    SatisfiesCurve c (m ^ 2 - x1 - x2) (m * (x1 - (m ^ 2 - x1 - x2)) - y1) := by
  unfold SatisfiesCurve at *
  have hslope : m * (x2 - x1) = y2 - y1 := by
    rw [hm]
    linear_combination (y2 - y1) * hu
  have hunit : ((m * (x1 - (m ^ 2 - x1 - x2)) - y1) ^ 2 -
      ((m ^ 2 - x1 - x2) ^ 3 + c.a * (m ^ 2 - x1 - x2) + c.b)) * (x2 - x1) = 0 := by
    linear_combination (x2 - (m ^ 2 - x1 - x2)) * h1 + ((m ^ 2 - x1 - x2) - x1) * h2 +
      ((m ^ 2 - x1 - x2) - x1) * (m * (x2 - x1) + y1 + y2) * hslope
  linear_combination u * hunit -
    ((m * (x1 - (m ^ 2 - x1 - x2)) - y1) ^ 2 -
      ((m ^ 2 - x1 - x2) ^ 3 + c.a * (m ^ 2 - x1 - x2) + c.b)) * hu

/-- The tangent at a curve point whose `2·y` is a unit meets the curve again at `x = m² − 2·x1`. -/
theorem tangent_satisfiesCurve {c : FieldCurve} {x1 y1 u m : ZMod c.p} (h1 : SatisfiesCurve c x1 y1)
    (hu : 2 * y1 * u = 1) (hm : m = (3 * x1 ^ 2 + c.a) * u) :
    SatisfiesCurve c (m ^ 2 - x1 - x1) (m * (x1 - (m ^ 2 - x1 - x1)) - y1) := by
  unfold SatisfiesCurve at *
  have hslope : 2 * y1 * m = 3 * x1 ^ 2 + c.a := by
    rw [hm]
    linear_combination (3 * x1 ^ 2 + c.a) * hu
  linear_combination h1 + ((m ^ 2 - x1 - x1) - x1) * hslope

/-- The model's chord point is that third point, reduced. -/
theorem chord_passes {c : FieldCurve} {m x1 y1 x2 : Nat} (hp : 0 < c.p)
    (h : SatisfiesCurve c ((m : ZMod c.p) ^ 2 - x1 - x2) (m * (x1 - ((m : ZMod c.p) ^ 2 - x1 - x2)) - y1)) :
    Passes c (chord c.p m x1 y1 x2) := by
  refine (liesOn_iff_satisfiesCurve _ _ _).2 ⟨zmod_lt _ hp, zmod_lt _ hp, ?_⟩
  rw [residue_zmod _ hp, residue_zmod _ hp]
  push_cast
  rw [residue_zmod _ hp]
  push_cast
  exact h

/-- The inverse of a point operation is the inverse in the ring of residues. -/
theorem modInvInternal_residue {p : Nat} {d : Int} {u : Nat} (h : modInvInternal p d = .ok u) :
    (d : ZMod p) * u = 1 := by
  obtain ⟨-, -, hu⟩ := modInv_eq_ok (modInvInternal_eq_ok.1 h)
  have := (ZMod.intCast_eq_intCast_iff _ _ _).2 hu
  push_cast at this
  exact this

/-- Over a prime every value but 0 has an inverse (R105). -/
theorem modInvInternal_of_prime {p : Nat} {d : Int} (hp : p.Prime) (hd : (d : ZMod p) ≠ 0) :
    ∃ u, modInvInternal p d = .ok u := by
  have hne : zmod d p ≠ 0 := fun h => hd ((zmod_eq_zero_iff d hp.pos).1 h)
  have hcop : Nat.gcd (zmod d p) p = 1 := (Nat.coprime_of_lt_prime hne (zmod_lt d hp.pos) hp).symm
  obtain ⟨u, hu⟩ := modInv_of_coprime hp.two_le hcop
  exact ⟨u, modInvInternal_eq_ok.2 hu⟩

/-! ## Over a prime P ≥ 3 the point operations are total and closed (R27, R88, R93, R105) -/

section
variable {c : FieldCurve} (hp : c.p.Prime) (h3 : 3 ≤ c.p)
include hp h3

theorem pointDouble_closed {pt : Point} (hpt : Passes c pt) : ∃ r, pointDouble c pt = .ok r ∧ Passes c r := by
  cases pt with
  | inf => exact ⟨.inf, rfl, trivial⟩
  | aff x y =>
    obtain ⟨-, -, hon⟩ := (liesOn_iff_satisfiesCurve c x y).1 hpt
    by_cases hy : zmod y c.p = 0
    · exact ⟨.inf, by simp only [pointDouble, hy, if_true], trivial⟩
    · have : Fact c.p.Prime := ⟨hp⟩
      have h2 : (2 : ZMod c.p) ≠ 0 := by
        intro h
        have := Nat.le_of_dvd two_pos ((ZMod.natCast_eq_zero_iff 2 c.p).1 (by exact_mod_cast h))
        omega
      have hy' : (y : ZMod c.p) ≠ 0 := fun h => hy ((zmod_eq_zero_iff _ hp.pos).2 (by simpa using h))
      obtain ⟨u, hu⟩ := modInvInternal_of_prime (d := 2 * (y : Int)) hp (by push_cast; exact mul_ne_zero h2 hy')
      have hinv := modInvInternal_residue hu
      push_cast at hinv
      refine ⟨chord c.p (zmod ((3 * (x : Int) ^ 2 + c.a) * u) c.p) x y x, by simp only [pointDouble, hy, if_false, hu],
        chord_passes hp.pos (tangent_satisfiesCurve hon hinv ?_)⟩
      rw [residue_zmod _ hp.pos]
      push_cast
      rfl

theorem pointAdd_closed {p1 p2 : Point} (h1 : Passes c p1) (h2 : Passes c p2) :
    ∃ r, pointAdd c p1 p2 = .ok r ∧ Passes c r := by
  rcases p1 with _ | ⟨x1, y1⟩
  · exact ⟨p2, rfl, h2⟩
  rcases p2 with _ | ⟨x2, y2⟩
  · exact ⟨.aff x1 y1, rfl, h1⟩
  by_cases heq : x1 = x2 ∧ y1 = y2
  · simp only [pointAdd, if_pos heq]
    exact pointDouble_closed hp h3 h1
  by_cases hx : x1 = x2
  · exact ⟨.inf, by simp only [pointAdd, if_neg heq, if_pos hx], trivial⟩
  obtain ⟨hx1, -, hon1⟩ := (liesOn_iff_satisfiesCurve c x1 y1).1 h1
  obtain ⟨hx2, -, hon2⟩ := (liesOn_iff_satisfiesCurve c x2 y2).1 h2
  have hd : (((x2 : Int) - x1 : Int) : ZMod c.p) ≠ 0 := by
    push_cast
    intro h
    have hmod := (ZMod.natCast_eq_natCast_iff' _ _ _).1 (sub_eq_zero.1 h)
    rw [Nat.mod_eq_of_lt hx1, Nat.mod_eq_of_lt hx2] at hmod
    exact hx hmod.symm
  obtain ⟨u, hu⟩ := modInvInternal_of_prime hp hd
  have hinv := modInvInternal_residue hu
  push_cast at hinv
  refine ⟨chord c.p (zmod (((y2 : Int) - y1) * u) c.p) x1 y1 x2, by simp only [pointAdd, if_neg heq, if_neg hx, hu],
    chord_passes hp.pos (secant_satisfiesCurve hon1 hon2 hinv ?_)⟩
  rw [residue_zmod _ hp.pos]
  push_cast
  rfl

theorem runOps_closed {pt : Point} (hpt : Passes c pt) (ops : List GroupOp) {acc : Point} (hacc : Passes c acc) :
    ∃ r, runOps c pt ops acc = .ok r ∧ Passes c r := by
  induction ops generalizing acc with
  | nil => exact ⟨acc, rfl, hacc⟩
  | cons op ops ih =>
    have hop : ∃ r, op.apply c pt acc = .ok r ∧ Passes c r := by
      cases op with
      | double => exact pointDouble_closed hp h3 hacc
      | addPoint => exact pointAdd_closed hp h3 hacc hpt
    obtain ⟨acc', hacc', hpass⟩ := hop
    simp only [runOps, hacc']
    exact ih hpass

theorem ladder_closed {pt : Point} (hpt : Passes c pt) (k : Nat) : ∃ r, ladder c pt k = .ok r ∧ Passes c r := by
  unfold ladder
  split
  · exact ⟨.inf, rfl, trivial⟩
  · exact runOps_closed hp h3 hpt _ hpt

end

/-- Settles O51: the secant and tangent constructions stay on the curve, and over a prime their inverses exist. -/
theorem primeModulusClosure : Obligations.PrimeModulusClosure := fun _ _ _ hp h3 h1 h2 =>
  ⟨pointDouble_closed hp h3 h1, pointAdd_closed hp h3 h1 h2, ladder_closed hp h3 h1⟩

/-! ## The scalar of PMUL (R23, R95) -/

/-- A number of `n` bits whose top bit is set is negative as a two's complement number. -/
theorem sext_neg {n v : Nat} (hn : 0 < n) (hlow : 2 ^ (n - 1) ≤ v) (hhigh : v < 2 ^ n) : sext n v < 0 := by
  have htop : v.testBit (n - 1) = true := by
    obtain ⟨m, rfl⟩ := Nat.exists_eq_succ_of_ne_zero hn.ne'
    rw [Nat.testBit_eq_decide_div_mod_eq]
    have hdiv : v / 2 ^ m = 1 := by
      refine Nat.div_eq_of_lt_le (by simpa using hlow) ?_
      rw [pow_succ, mul_comm] at hhigh
      exact hhigh
    simp [hdiv]
  have hlt : (v : Int) < (2 ^ n : Nat) := by exact_mod_cast hhigh
  rw [sext, if_pos htop]
  omega

/-- Settles O52: the point passes its check, and the scalar's sign then decides. -/
theorem pmulRejectsNegativeScalars : Obligations.PmulRejectsNegativeScalars := by
  intro s hv hpt hp hhigh hlow
  have hkw : 0 < s.params.kw := by
    simp only [Params.wf, Bool.and_eq_true, decide_eq_true_eq] at hp
    omega
  have hneg : s.latch.snapshot.ops.scalar s.params < 0 := sext_neg hkw hlow hhigh
  have hout : commandOutcome s.params s.latch.snapshot .pmul = .error .invalidScalar := by
    rw [commandOutcome, evalPmul, onLoadedCurve_of_passed _ hv (by simpa [onCurve_iff_passes] using hpt), if_pos hneg]
  rw [exec_eq_complete, hout, complete_error]
  rfl

end Sys2Proof.Laws

namespace Sys2Proof.Machine

open Sys2Proof.Laws Sys2Proof.Machine.Claim

/-- A prescribed turn is what the step takes, with that turn used up (R15). -/
theorem step_of_turns {s : State} {turn : Turn} {rest : List Turn} (h : s.turns = turn :: rest) :
    step s = runTurn turn (s.setTurns rest) := by
  rw [step, runNextTurn, h]

/-! ## Reset and the register map -/

/-- Settles O4: `State.resetBlock` gives every register its value of R36 and leaves what surrounds the block. -/
theorem resetTurnClearsTheBlock : Obligations.ResetTurnClearsTheBlock := by
  intro s rest h
  refine ⟨(s.setTurns rest).resetBlock, step_of_turns h, ?_, rfl, rfl, rfl, rfl, rfl, rfl, rfl, rfl,
    rfl, rfl, rfl⟩
  intro r
  cases r with
  | operand r => cases r <;> rfl
  | _ => rfl

/-- Settles O5, register by register. -/
theorem resetStateReadsZero : Obligations.ResetStateReadsZero := by
  refine ⟨fun r => ?_, rfl, rfl⟩
  cases r with
  | operand r => cases r <;> rfl
  | _ => rfl

/-- Settles O6: the reset state of every legal build, and of the build of the vectors. -/
theorem invariantHoldsAtReset : Obligations.InvariantHoldsAtReset :=
  ⟨fun _ h => State.inv_init h, State.inv_init (by decide)⟩

/-- Settles O8, by the index table's own law; the 27 indices are the table's. -/
theorem registerMapIsExact : Obligations.RegisterMapIsExact :=
  ⟨Reg.ofIndex_eq_some, fun _ => Reg.ofIndex_reserved, by decide⟩

/-! ## The flag words -/

/-- A word of two flags, bit by bit. -/
theorem testBit_twoFlags (a b : Bool) (i : Nat) :
    (bit a + 2 * bit b).testBit i = if i = 0 then a else if i = 1 then b else false := by
  have hlt : bit a < 2 ^ 1 := by cases a <;> decide
  rw [Nat.add_comm, show 2 * bit b = 2 ^ 1 * bit b from rfl, Nat.testBit_two_pow_mul_add _ hlt]
  rcases i with _ | _ | i
  · cases a <;> rfl
  · cases b <;> rfl
  · cases b <;> simp [bit, Nat.testBit_succ]

theorem twoFlags_lt (a b : Bool) : bit a + 2 * bit b < 4 := by cases a <;> cases b <;> decide

/-- STATUS as its three groups of bits (R19): the two at the bottom, ERR from bit 4, the two from bit 8. -/
theorem statusWord_eq (st : Status) (v : Bool) :
    statusWord st v =
      2 ^ 8 * (bit v + 2 * bit st.dropped) + (2 ^ 4 * st.err.toNat + (bit st.busy + 2 * bit st.done)) := by
  unfold statusWord
  omega

/-- Settles O20: each group of STATUS bit by bit. -/
theorem statusWordBits : Obligations.StatusWordBits := by
  intro s i
  have hflags := twoFlags_lt s.status.busy s.status.done
  have herr : s.status.err.toNat < 2 ^ 4 := s.status.err.isLt
  have hbits : ∀ j, s.status.err.toNat.testBit j = s.status.err.getLsbD j := fun _ => rfl
  rw [State.readReg, statusWord_eq, Nat.testBit_two_pow_mul_add _ (by omega),
    Nat.testBit_two_pow_mul_add _ (by omega), testBit_twoFlags, testBit_twoFlags, hbits]
  by_cases h8 : i < 8
  · by_cases h4 : i < 4
    · have : ¬(4 ≤ i ∧ i ≤ 7) := by omega
      have : i ≠ 8 ∧ i ≠ 9 := by omega
      simp [*]
    · have : 4 ≤ i ∧ i ≤ 7 := by omega
      have : i ≠ 0 ∧ i ≠ 1 := by omega
      simp [*]
  · have h0 : i - 8 = 0 ↔ i = 8 := by omega
    have h1 : i - 8 = 1 ↔ i = 9 := by omega
    have : ¬(4 ≤ i ∧ i ≤ 7) := by omega
    have : i ≠ 0 ∧ i ≠ 1 := by omega
    simp [*]

/-- OPFLAGS after a write of `d` reads as the two bits of `d` that it took (R20). -/
theorem readWord_opflags {s : State} {o : Operands} {d : Word} (h : s.ops = o.writeFlags d) :
    s.readWord 3 0 = d &&& 3 := by
  have hread : s.readWord 3 0 = BitVec.ofNat 32 (wordSlice (opflagsWord s.ops) 0) := rfl
  rw [hread, ofNat_wordSlice, Nat.mul_zero, pow_zero, Nat.div_one, h, opflagsWord]
  apply BitVec.eq_of_getLsbD_eq
  intro i hi
  have h3 : (3 : Word).getLsbD i = (decide (i = 0) || decide (i = 1)) := by
    revert i
    decide
  rw [BitVec.getLsbD_ofNat, testBit_twoFlags, BitVec.getLsbD_and, h3]
  rcases i with _ | _ | i <;> simp [Operands.writeFlags]

/-! ## Host writes to CMD, STATUS and OPFLAGS -/

/-- Settles O16: the write's step, and the accept of R31 field by field. -/
theorem cmdWriteIsAcceptedWhenIdle : Obligations.CmdWriteIsAcceptedWhenIdle := by
  intro s rest w hp hb h
  have hw : (s.setTurns rest).writeWord 1 0 w = (s.setTurns rest).accept w := by
    simp [State.writeWord, Reg.ofIndex, hb]
  have hstep := step_write s rest 1 0 w hp (by decide) (by decide) h
  rw [hw] at hstep
  exact hstep

/-- Settles O17: word 0 is the drop of R32, and every other word of CMD is ignored. -/
theorem cmdWriteIsDroppedWhenBusy : Obligations.CmdWriteIsDroppedWhenBusy := by
  intro s rest w hp
  constructor
  · intro hb h
    have hst : s.status.afterDrop = ⟨true, s.status.done, true, s.status.err⟩ := by rw [Status.afterDrop, hb]
    have hw : (s.setTurns rest).writeWord 1 0 w = (s.setTurns rest).setStatus s.status.afterDrop := by
      simp [State.writeWord, Reg.ofIndex, hb, State.drop]
    have hstep := step_write s rest 1 0 w hp (by decide) (by decide) h
    rw [hw, hst] at hstep
    exact hstep
  · intro j hj1 hj h
    have hw : (s.setTurns rest).writeWord 1 j w = s.setTurns rest := by
      simp [State.writeWord, Reg.ofIndex, Nat.one_le_iff_ne_zero.1 hj1]
    have hstep := step_write s rest 1 j w hp (by decide) hj h
    rw [hw] at hstep
    exact hstep

/-- Settles O18: bit 9 decides whether DROPPED is cleared. -/
theorem statusWriteClearsDropped : Obligations.StatusWriteClearsDropped := by
  intro s rest d hp h
  have hw : (s.setTurns rest).writeWord 2 0 d = (s.setTurns rest).setStatus (s.status.afterWrite d) := rfl
  have hst : s.status.afterWrite d =
      ⟨s.status.busy, s.status.done, if d.getLsbD 9 then false else s.status.dropped, s.status.err⟩ := by
    unfold Status.afterWrite
    split <;> rfl
  have hstep := step_write s rest 2 0 d hp (by decide) (by decide) h
  rw [hw, hst] at hstep
  exact hstep

/-- The step of a write to OPFLAGS (R20). -/
theorem step_write_opflags {s : State} {ts : List Turn} {d : Word} (hp : s.params.wf = true)
    (h : s.turns = .host (.write (s.params.base + 0x300) 4 d) :: ts) :
    step s = .next (((s.setTurns ts).setOps (s.ops.writeFlags d)).record (.write (s.params.base + 0x300) 4 d)
      ⟨none, false⟩) :=
  step_write s ts 3 0 d hp (by decide) (by decide) h

/-- The step of a read of OPFLAGS that holds the bits of `d`. -/
theorem step_read_opflags {s : State} {o : Operands} {d : Word} (rest : List Turn) (hp : s.params.wf = true)
    (hd : s.ops = o.writeFlags d) (h : s.turns = .host (.read (s.params.base + 0x300) 4) :: rest) :
    step s = .next ((s.setTurns rest).record (.read (s.params.base + 0x300) 4) ⟨some (d &&& 3), false⟩) := by
  rw [← readWord_opflags hd]
  exact step_read s rest 3 0 hp (by decide) (by decide) h

/-- Settles O19: the write's step, then the read's. -/
theorem opflagsHoldsItsTwoBits : Obligations.OpflagsHoldsItsTwoBits := by
  intro s rest d hp h
  have hw := step_write_opflags hp h
  have hr := step_read_opflags (s := ((s.setTurns (.host (.read (s.params.base + 0x300) 4) :: rest)).setOps
    (s.ops.writeFlags d)).record (.write (s.params.base + 0x300) 4 d) ⟨none, false⟩) rest hp rfl rfl
  exact ⟨_, (core_run_succ 1 hw).trans (core_run_succ 0 hr), rfl, List.append_assoc _ _ _, rfl, rfl, rfl, rfl⟩

/-! ## The engine -/

/-- A word written as its four byte lanes reads back as itself (R47). -/
theorem wordOfBytes_lanes (w : Word) :
    wordOfBytes (BitVec.ofNat 8 w.toNat) (BitVec.ofNat 8 (w.toNat / 0x100)) (BitVec.ofNat 8 (w.toNat / 0x10000))
      (BitVec.ofNat 8 (w.toNat / 0x1000000)) = w := by
  apply BitVec.eq_of_toNat_eq
  have := w.isLt
  rw [wordOfBytes_toNat]
  simp only [BitVec.toNat_ofNat]
  omega

/-- What the decoder reads from the bytes of a table word is what an accept of that word latches (R61). -/
theorem busyOp_of_decodeTableWord {nbits w : Nat} {i : Instr} (h : decodeTableWord nbits w = some i) :
    busyOp (tableWord nbits w) = .command i := by
  unfold decodeTableWord at h
  split at h
  · cases h
  simp only [bytesOfWord, decodeBytes, wordOfBytes_lanes] at h
  unfold busyOp
  cases hd : decodeWord (tableWord nbits w) <;> simp_all

/-- The engine's step while a command is in the latch (R33). -/
theorem engineStep_command {s : State} {i : Instr} (hb : s.status.busy = true) (hi : s.latch.op = .command i) :
    engineStep s = exec i s := by
  simp only [engineStep, hb, hi, if_true]

/-- Settles O23: the engine's turn, prescribed and default, and the turn after an accept. -/
theorem stepRunsTheLatchedCommand : Obligations.StepRunsTheLatchedCommand := by
  constructor
  · intro s i rest hb hi
    constructor
    · intro h
      exact (step_of_turns h).trans (engineStep_command (s := s.setTurns rest) hb hi)
    · intro h
      rw [step, runNextTurn, h]
      simp only [defaultTurn, hb, if_true]
      exact engineStep_command hb hi
  · intro s nbits w i _ h
    have hop := busyOp_of_decodeTableWord h
    rw [← hop]
    exact engineStep_command (s := s.accept (tableWord nbits w)) rfl hop

/-- Settles O26: the invariant rules out the empty latch, and every completion leaves one of the codes 0 to 7. -/
theorem acceptedCommandAlwaysCompletes : Obligations.AcceptedCommandAlwaysCompletes := by
  intro s rest hs hb h
  obtain ⟨hlatch, -, -⟩ := hs.latch_sound
  rcases engineStep_cases (s.setTurns rest) with ⟨-, -, o, ho, -⟩ | ⟨hidle | hempty, -⟩
  · obtain ⟨-, -, hcode⟩ := statusLegal_complete (s.setTurns rest) o
    exact ⟨(s.setTurns rest).complete o, (step_of_turns h).trans ho, by simp, by simp, hcode, by simp, by simp⟩
  · exact absurd hb (by simpa using hidle)
  · exact absurd hempty (hlatch.1 hb)

/-- What a completion leaves of the curve and of the results, by what it writes (R63). -/
theorem complete_keeps (o : Except ErrorKind Writes) (s : State) :
    ((∀ c, o ≠ .ok (.curve c)) → (s.complete o).curve = s.curve) ∧
    ((∀ v, o ≠ .ok (.inverse v)) → (s.complete o).result.inv = s.result.inv) ∧
    ((∀ pt, o ≠ .ok (.point pt)) → (s.complete o).result.inf = s.result.inf ∧
      (s.complete o).result.x = s.result.x ∧ (s.complete o).result.y = s.result.y) := by
  rcases o with e | (v | c | (_ | ⟨x, y⟩))
  · exact ⟨fun _ => rfl, fun _ => rfl, fun _ => ⟨rfl, rfl, rfl⟩⟩
  · exact ⟨fun _ => rfl, fun h => absurd rfl (h v), fun _ => ⟨rfl, rfl, rfl⟩⟩
  · exact ⟨fun h => absurd rfl (h c), fun _ => rfl, fun _ => ⟨rfl, rfl, rfl⟩⟩
  · exact ⟨fun _ => rfl, fun _ => rfl, fun h => absurd rfl (h .inf)⟩
  · exact ⟨fun _ => rfl, fun _ => rfl, fun h => absurd rfl (h (.aff x y))⟩

/-- Settles O27: the frame of a completion, and the kind of write that each command can make. -/
theorem commandFrame : Obligations.CommandFrame := by
  intro i s
  obtain ⟨hcurve, hinv, hpoint⟩ := complete_keeps (commandOutcome s.params s.latch.snapshot i) s
  refine ⟨_, exec_eq_complete i s, by simp, by simp, by simp, by simp, by simp, by simp, by simp, by simp,
    fun hi => hcurve fun c h => ?_, fun hi => hinv fun v h => ?_, fun hi => hpoint fun pt h => ?_⟩
  all_goals
    rcases commandOutcome_ok h with ⟨hm, _, hw⟩ | ⟨hl, _, hw, _⟩ | ⟨hm, hl, _, hw⟩
  all_goals cases hw
  · exact hi hl
  · exact hi hm
  · exact hi.elim hm hl

/-! ## What a command reads -/

/-- A point operand depends on its coordinate registers only where its INF flag is 0 (R22). -/
theorem pointOperand_congr {f f' : Bool} {x y x' y' : Nat} (hf : f' = f) (hxy : f = false → x' = x ∧ y' = y) :
    pointOperand f' x' y' = pointOperand f x y := by
  subst hf
  cases f' with
  | true => rfl
  | false =>
    obtain ⟨rfl, rfl⟩ := hxy rfl
    rfl

/-- A completion does not look at the latch: it empties it (log entry 5). -/
theorem complete_congr_latch (o : Except ErrorKind Writes) (s : State) (l : Latch) :
    (s.setLatch l).complete o = s.complete o := by
  rcases o with _ | (_ | _ | _) <;> rfl

/-- Two latches with the same outcome of a command give the same completion of it. -/
theorem exec_congr_latch {i : Instr} {s : State} {l : Latch}
    (h : commandOutcome s.params l.snapshot i = commandOutcome s.params s.latch.snapshot i) :
    exec i (s.setLatch l) = exec i s := by
  rw [exec_eq_complete, exec_eq_complete, complete_congr_latch, State.setLatch_latch, State.setLatch_params, h]

/-- Settles O29: each outcome is a function of the operands that R63 lists. -/
theorem commandReadsOnlyItsOperands : Obligations.CommandReadsOnlyItsOperands := by
  intro s q p s' sameCurve sameA sameB
  have hcurve : sameCurve → q.curveValid = p.curveValid ∧ q.curve = p.curve := by
    rintro ⟨hv, ha, hb, hp⟩
    exact ⟨hv, by rw [Snapshot.curve, Snapshot.curve, ha, hb, hp]⟩
  have hA : sameA → q.ops.ptA = p.ops.ptA := fun h => pointOperand_congr h.1 h.2
  have hB : sameB → q.ops.ptB = p.ops.ptB := fun h => pointOperand_congr h.1 h.2
  refine ⟨fun h1 h2 => exec_congr_latch ?_, fun h1 h2 h3 h4 h5 h6 => exec_congr_latch ?_,
    fun hc ha => exec_congr_latch ?_, fun hc ha hb => exec_congr_latch ?_, fun hc ha hk => exec_congr_latch ?_⟩
  · simp only [commandOutcome, evalModinv, h1, h2]
    rfl
  · simp only [commandOutcome, evalCurveLoad, h1, h2, h3, h4, h5, h6]
    rfl
  · obtain ⟨hv, hc⟩ := hcurve hc
    simp only [commandOutcome, evalPdbl, onLoadedCurve, hv, hc, hA ha]
    rfl
  · obtain ⟨hv, hc⟩ := hcurve hc
    simp only [commandOutcome, evalPadd, onLoadedCurve, hv, hc, hA ha, hB hb]
    rfl
  · obtain ⟨hv, hc⟩ := hcurve hc
    simp only [commandOutcome, evalPmul, onLoadedCurve, Operands.scalar, hv, hc, hA ha, hk]
    rfl

/-! ## Who writes the engine's registers -/

/-- What an aligned write of the host leaves of the registers that the engine writes (R16, R46). -/
theorem writeWord_keeps (s : State) (n j : Nat) (d : Word) :
    (s.writeWord n j d).params = s.params ∧ (s.writeWord n j d).curve = s.curve ∧
    (s.writeWord n j d).result = s.result := by
  rcases writeWord_cases s n j d with
    e | ⟨-, -, -, e⟩ | ⟨-, -, -, e⟩ | ⟨-, -, e⟩ | ⟨-, -, e⟩ | ⟨r, -, -, e⟩ <;> rw [e] <;> exact ⟨rfl, rfl, rfl⟩

/-- An aligned write leaves BUSY, DONE, ERR and the latch, or it is an accept by an idle block (R31, R34). -/
theorem writeWord_status (s : State) (n j : Nat) (d : Word) :
    ((s.writeWord n j d).status.busy = s.status.busy ∧ (s.writeWord n j d).status.done = s.status.done ∧
      (s.writeWord n j d).status.err = s.status.err ∧ (s.writeWord n j d).latch = s.latch) ∨
    (s.status.busy = false ∧ s.writeWord n j d = s.accept d) := by
  rcases writeWord_cases s n j d with
    e | ⟨-, -, -, e⟩ | ⟨-, -, hb, e⟩ | ⟨-, -, e⟩ | ⟨-, -, e⟩ | ⟨r, -, -, e⟩
  · exact .inl (by rw [e]; exact ⟨rfl, rfl, rfl, rfl⟩)
  · exact .inl (by rw [e]; exact ⟨rfl, rfl, rfl, rfl⟩)
  · exact .inr ⟨hb, e⟩
  · rw [e, Status.afterWrite]
    split <;> exact .inl ⟨rfl, rfl, rfl, rfl⟩
  · exact .inl (by rw [e]; exact ⟨rfl, rfl, rfl, rfl⟩)
  · exact .inl (by rw [e]; exact ⟨rfl, rfl, rfl, rfl⟩)

/-- Settles O21: PARAMS as its two halves, and the parameters over what a step can do. -/
theorem paramsNeverChange : Obligations.ParamsNeverChange := by
  constructor
  · intro s hp
    simp only [Params.wf, Bool.and_eq_true, decide_eq_true_eq] at hp
    simp only [State.readReg, paramsWord]
    omega
  · intro s t h
    rcases step_cases h with ⟨hp, -⟩ | ⟨-, n, j, d, hp, -⟩ | ⟨-, -, -, o, rest, rfl, -⟩ | ⟨rest, -, rfl⟩
    · exact hp
    · obtain ⟨hp', -, -⟩ := writeWord_keeps s n j d
      exact hp.trans hp'
    · simp
    · rfl

/-- Settles O22: of what a step can do, only an aligned write is left to the host, and it is an accept or keeps the
flags. -/
theorem hostNeverWritesEngineRegisters : Obligations.HostNeverWritesEngineRegisters := by
  intro s t h hturn
  rcases step_cases h with ⟨-, -, hc, hr, hst, hl⟩ | ⟨-, n, j, d, -, -, hc, hr, hst, hl⟩ | ⟨he, hb, -⟩ | ⟨rest, hreset, -⟩
  · exact ⟨hc, hr, .inl ⟨by rw [hst], by rw [hst], by rw [hst], hl⟩⟩
  · obtain ⟨-, hc', hr'⟩ := writeWord_keeps s n j d
    refine ⟨hc.trans hc', hr.trans hr', ?_⟩
    rw [hst, hl]
    rcases writeWord_status s n j d with hkeep | ⟨hb, he⟩
    · exact .inl hkeep
    · rw [he]
      exact .inr ⟨hb, rfl, rfl⟩
  · exfalso
    rcases hturn with ⟨rest, ⟨req, ht⟩ | ht⟩ | ⟨-, hidle⟩
    · simp [ht] at he
    · simp [ht] at he
    · simp [hb] at hidle
  · exfalso
    rcases hturn with ⟨rest', ⟨req, ht⟩ | ht⟩ | ⟨ht, -⟩ <;> simp [ht] at hreset

/-- What a step can do to the loaded curve: nothing, a reset, or the load by a latched CURVE_LOAD (R26). -/
theorem step_curve {s t : State} (h : step s = .next t) :
    t.curve = s.curve ∨ (∃ rest, s.turns = .reset :: rest) ∨
    (((∃ rest, s.turns = .engine :: rest) ∨ s.turns = []) ∧ s.status.busy = true ∧
      s.latch.op = .command .curveLoad ∧ ∃ c rest, c.valid = true ∧ t = (s.setTurns rest).complete (.ok (.curve c))) := by
  rcases step_cases h with
    ⟨-, -, hc, -⟩ | ⟨-, n, j, d, -, -, hc, -⟩ | ⟨hturn, hb, -, o, rest, rfl, ho⟩ | ⟨rest, hreset, -⟩
  · exact .inl hc
  · obtain ⟨-, hc', -⟩ := writeWord_keeps s n j d
    exact .inl (hc.trans hc')
  · by_cases hw : ∃ c, o = .ok (.curve c)
    · obtain ⟨c, rfl⟩ := hw
      rcases ho with ⟨i, hi, hout⟩ | ⟨-, hout⟩
      · rcases commandOutcome_ok hout.symm with ⟨-, _, hw⟩ | ⟨rfl, _, hw, hv⟩ | ⟨-, -, _, hw⟩ <;> cases hw
        exact .inr (.inr ⟨hturn, hb, hi, c, rest, hv, rfl⟩)
      · cases hout
    · obtain ⟨hcurve, -, -⟩ := complete_keeps o (s.setTurns rest)
      exact .inl (hcurve fun c hc => hw ⟨c, hc⟩)
  · exact .inr (.inl ⟨rest, hreset⟩)

/-- Settles O38: without a reset only a completed load changes the curve, with CURVE_VALID 1 and ERR 0. -/
theorem curveValidIsClearedOnlyByReset : Obligations.CurveValidIsClearedOnlyByReset := by
  intro s t h hreset
  rcases step_curve h with hc | ⟨rest, hr⟩ | ⟨-, -, -, c, rest, hv, rfl⟩
  · exact ⟨fun hv => hc ▸ hv, fun _ _ _ => hc⟩
  · exact absurd hr (hreset rest)
  · exact ⟨fun _ => hv, fun _ _ herr => absurd rfl herr⟩

/-- Settles O39, by what a step can do to the curve. -/
theorem onlyCurveLoadAndResetChangeTheCurve : Obligations.OnlyCurveLoadAndResetChangeTheCurve := by
  intro s t h hne
  rcases step_curve h with hc | hreset | ⟨hturn, hb, hi, c, rest, -, rfl⟩
  · exact absurd hc hne
  · exact .inl hreset
  · exact .inr ⟨hb, hi, rfl, rfl, hturn⟩

/-! ## Host accesses while a command is in flight -/

/-- The two states agree on all that a completion reads and writes but DROPPED, which it keeps: the operand registers,
DROPPED and what surrounds the block are free. -/
structure SameInFlight (s u : State) : Prop where
  params : u.params = s.params
  curve : u.curve = s.curve
  result : u.result = s.result
  latch : u.latch = s.latch
  busy : u.status.busy = s.status.busy
  done : u.status.done = s.status.done
  err : u.status.err = s.status.err

theorem SameInFlight.complete {s u : State} (h : SameInFlight s u) (o : Except ErrorKind Writes) :
    SameInFlight (s.complete o) (u.complete o) := by
  have hp := h.params
  have hc := h.curve
  have hr := h.result
  rcases o with e | (v | c | pt)
  · exact ⟨hp, hc, hr, rfl, rfl, rfl, rfl⟩
  · exact ⟨hp, hc, by rw [complete_inverse, complete_inverse, hr], rfl, rfl, rfl, rfl⟩
  · exact ⟨hp, rfl, hr, rfl, rfl, rfl, rfl⟩
  · exact ⟨hp, hc, by rw [complete_point, complete_point, hr], rfl, rfl, rfl, rfl⟩

/-- The engine's step of two such states answers two such states. -/
theorem SameInFlight.engineStep {s u : State} (h : SameInFlight s u) :
    ∃ s' u', engineStep s = .next s' ∧ engineStep u = .next u' ∧ SameInFlight s' u' ∧ s'.turns = s.turns ∧
      u'.turns = u.turns := by
  unfold Machine.engineStep
  rw [h.busy, h.latch]
  split
  · split
    · rename_i i hi
      refine ⟨_, _, exec_eq_complete i s, exec_eq_complete i u, ?_, by simp, by simp⟩
      rw [h.params, h.latch]
      exact h.complete _
    · exact ⟨_, _, rfl, rfl, h.complete _, rfl, rfl⟩
    · exact ⟨_, _, rfl, rfl, h, rfl, rfl⟩
  · exact ⟨_, _, rfl, rfl, h, rfl, rfl⟩

/-- One in-window access of the host, as a step. -/
theorem step_host_whileBusy {s : State} {req : BusRequest} {ts : List Turn} (hb : s.status.busy = true)
    (hreq : req.wf s.params = true) (h : s.turns = .host req :: ts) :
    ∃ s', step s = .next s' ∧ SameInFlight s s' ∧ s'.turns = ts := by
  obtain ⟨s', resp, hbus⟩ := busTransact_completes (s := s.setTurns ts) hreq
  obtain ⟨hp, hc, hr, hl, hbusy, hdone, herr, -, hturns⟩ := busTransact_whileBusy (s := s.setTurns ts) hb hbus
  refine ⟨s', ?_, ⟨hp, hc, hr, hl, hbusy.trans hb.symm, hdone, herr⟩, hturns⟩
  rw [step_of_turns h]
  simp only [runTurn, hostStep, hbus]

theorem SameInFlight.trans {s u v : State} (h1 : SameInFlight s u) (h2 : SameInFlight u v) : SameInFlight s v where
  params := h2.params.trans h1.params
  curve := h2.curve.trans h1.curve
  result := h2.result.trans h1.result
  latch := h2.latch.trans h1.latch
  busy := h2.busy.trans h1.busy
  done := h2.done.trans h1.done
  err := h2.err.trans h1.err

/-- A run of in-window host accesses while a command is in flight. -/
theorem run_hosts_whileBusy (reqs : List BusRequest) {s : State} {ts : List Turn} (hb : s.status.busy = true)
    (hreqs : ∀ req ∈ reqs, req.wf s.params = true) (h : s.turns = reqs.map Turn.host ++ ts) :
    ∃ s', (∀ k, Sys2Proof.core.run (reqs.length + k) s = Sys2Proof.core.run k s') ∧ SameInFlight s s' ∧
      s'.turns = ts := by
  induction reqs generalizing s with
  | nil => exact ⟨s, fun k => by rw [List.length_nil, Nat.zero_add], ⟨rfl, rfl, rfl, rfl, rfl, rfl, rfl⟩, h⟩
  | cons req reqs ih =>
    obtain ⟨s1, hstep, hsame, hturns⟩ := step_host_whileBusy hb (hreqs req (by simp)) h
    obtain ⟨s', hrun, hsame', hturns'⟩ := ih (hsame.busy.trans hb)
      (fun r hr => by rw [hsame.params]; exact hreqs r (by simp [hr])) hturns
    refine ⟨s', fun k => ?_, hsame.trans hsame', hturns'⟩
    rw [List.length_cons, Nat.add_right_comm, core_run_succ _ hstep, hrun]

/-- Settles O30: the accesses keep all that the completion reads, so the engine's step answers the same. -/
theorem hostAccessesDoNotAffectTheCommandInFlight : Obligations.HostAccessesDoNotAffectTheCommandInFlight := by
  intro s reqs rest hb hreqs h
  obtain ⟨s', hrun, hsame, hturns⟩ := run_hosts_whileBusy reqs hb hreqs h
  have hstart : SameInFlight (s.setTurns rest) (s'.setTurns rest) :=
    ⟨hsame.params, hsame.curve, hsame.result, hsame.latch, hsame.busy, hsame.done, hsame.err⟩
  obtain ⟨u, t, hu, ht, hsame', huturns, htturns⟩ := hstart.engineStep
  have hstep : step s' = .next t := (step_of_turns hturns).trans ht
  refine ⟨t, u, by rw [hrun, core_run_succ 0 hstep]; rfl, hu, hsame'.result, hsame'.curve, hsame'.err, hsame'.busy,
    hsame'.done, hsame'.latch, htturns.trans huturns.symm⟩

end Sys2Proof.Machine

/-! # Proofs of the family 20_memory: what an access of the host reads, writes and leaves unchanged -/

namespace Sys2Proof.Machine

open Sys2Proof.Laws Sys2Proof.Machine.Claim

/-! ## Accesses that reach no register -/

theorem inWindow_iff (pr : Params) (addr : Nat) :
    inWindow pr addr = true ↔ pr.base ≤ addr ∧ addr < pr.base + 0x2000 := by
  simp [inWindow]

/-- The offset keeps the two address bits that decide alignment (R41, R42). -/
theorem windowOff_mod_four (addr : Nat) : windowOff addr % 4 = addr % 4 := by
  unfold windowOff
  omega

/-- A host request of another width than 32 bits is refused, wherever it points (R43, log entry 17). -/
theorem step_of_size_ne {s : State} {rest : List Turn} {req : BusRequest} (h : s.turns = .host req :: rest)
    (hsize : req.size ≠ 4) : step s = .refused .accessWidth := by
  have hbus : busTransact req (s.setTurns rest) = .refused .accessWidth := by simp [busTransact, hsize]
  rw [step_of_turns h, runTurn, hostStep, hbus]

/-- A 32-bit host request that points outside the window faults (R41, log entry 10). -/
theorem step_of_not_inWindow {s : State} {rest : List Turn} {req : BusRequest} (h : s.turns = .host req :: rest)
    (hsize : req.size = 4) (hout : ¬inWindow s.params req.addr = true) : step s = .fault .outsideWindow := by
  have hbus : busTransact req (s.setTurns rest) = .fault .outsideWindow := by simp [busTransact, hsize, hout]
  rw [step_of_turns h, runTurn, hostStep, hbus]

/-- The step of a misaligned read in the window: data 0, err = 1 (R42, log entry 6). -/
theorem step_read_misaligned {s : State} {rest : List Turn} {addr : Nat}
    (h : s.turns = .host (.read addr 4) :: rest) (hin : inWindow s.params addr = true) (hmis : addr % 4 ≠ 0) :
    step s = .next (logged s rest (.read addr 4) ⟨some 0, true⟩) := by
  have hread : (s.setTurns rest).busRead (windowOff addr) = (0, true) := if_pos (by rwa [windowOff_mod_four])
  rw [step_of_turns h, runTurn]
  simp only [hostStep, busTransact, BusRequest.size, BusRequest.addr, State.setTurns_params, hin, hread]
  rfl

/-- The step of a misaligned write in the window: err = 1 and no effect (R42, log entry 6). -/
theorem step_write_misaligned {s : State} {rest : List Turn} {addr : Nat} {d : Word}
    (h : s.turns = .host (.write addr 4 d) :: rest) (hin : inWindow s.params addr = true) (hmis : addr % 4 ≠ 0) :
    step s = .next (logged s rest (.write addr 4 d) ⟨none, true⟩) := by
  have hwrite : (s.setTurns rest).busWrite (windowOff addr) d = (s.setTurns rest, true) :=
    if_pos (by rwa [windowOff_mod_four])
  rw [step_of_turns h, runTurn]
  simp only [hostStep, busTransact, BusRequest.size, BusRequest.addr, State.setTurns_params, hin, hwrite]
  rfl

/-- Settles O9: a misaligned request in the window is answered with err = 1. -/
theorem misalignedAccessHasNoEffect : Obligations.MisalignedAccessHasNoEffect := by
  intro s rest addr d hlow hhigh hmis
  have hin : inWindow s.params addr = true := (inWindow_iff _ _).2 ⟨hlow, hhigh⟩
  exact ⟨fun h => step_read_misaligned h hin hmis, fun h => step_write_misaligned h hin hmis⟩

/-- Settles O10: the width is looked at first, whatever the kind of request. -/
theorem otherWidthsAreRefused : Obligations.OtherWidthsAreRefused := fun _ _ _ _ _ hsize =>
  ⟨fun h => step_of_size_ne h hsize, fun h => step_of_size_ne h hsize⟩

/-- Settles O11: then the window. -/
theorem outsideTheWindowFaults : Obligations.OutsideTheWindowFaults := by
  intro s rest addr d haddr
  have hout : ¬inWindow s.params addr = true := by
    rw [inWindow_iff]
    omega
  exact ⟨fun h => step_of_not_inWindow h rfl hout, fun h => step_of_not_inWindow h rfl hout⟩

/-! ## What a read returns -/

theorem wordCount_eq_words (pr : Params) (r : Reg) : wordCount pr r = r.words pr := by
  cases r with
  | operand r => cases r <;> rfl
  | _ => rfl

/-- A flag that stands at a bit of weight `n` in a word. -/
theorem ite_eq_mul_bit (b : Bool) (n : Nat) : (if b then n else 0) = n * bit b := by
  cases b <;> simp [bit]

/-- The claim's field-by-field table of `x[NAME]` is what the model reads (R10, R17 to R28). -/
theorem registerValue_eq_readReg (s : State) (r : Reg) : registerValue s r = s.readReg r := by
  cases r with
  | operand r => cases r <;> rfl
  | status =>
    simp only [registerValue, State.readReg, statusWord, ite_eq_mul_bit]
    omega
  | opflags =>
    simp only [registerValue, State.readReg, opflagsWord, ite_eq_mul_bit]
    omega
  | _ => rfl

/-- The word that a read of a named register returns (R45). -/
theorem readWord_index (s : State) (r : Reg) (j : Nat) : s.readWord r.index j = readData s r j := by
  have hread : s.readWord r.index j =
      if j < r.words s.params then BitVec.ofNat 32 (wordSlice (s.readReg r) j) else 0 := by
    simp [State.readWord]
  rw [hread, readData, ofNat_wordSlice, wordCount_eq_words, registerValue_eq_readReg]
  by_cases hr : r = .cmd
  · subst hr
    simp [State.readReg]
  · simp [hr]

theorem readWord_reserved (s : State) {n : Nat} (j : Nat) (h : 0x1B ≤ n) : s.readWord n j = 0 := by
  simp [State.readWord, Reg.ofIndex_reserved h]

/-- The step of an aligned read of a named register. -/
theorem step_read_reg {s : State} {rest : List Turn} (r : Reg) {j : Nat} (hp : s.params.wf = true) (hj : j < 64)
    (h : s.turns = .host (.read (wordAddr s.params r.index j) 4) :: rest) :
    step s = .next (logged s rest (.read (wordAddr s.params r.index j) 4) ⟨some (readData s r j), false⟩) := by
  have hn : r.index ≤ 0x1F := by have := r.index_lt; omega
  rw [← readWord_index]
  exact step_read s rest r.index j hp hn hj h

/-- Settles O12: the words of the register file, and the engine's step before such a read. -/
theorem alignedReadReturnsTheWord : Obligations.AlignedReadReturnsTheWord := by
  intro s rest j hp hj
  refine ⟨fun r h => step_read_reg r hp hj h, fun n hlow hhigh h => ?_, fun r i hb hi h => ?_⟩
  · rw [← readWord_reserved s j hlow]
    exact step_read s rest n j hp hhigh hj h
  · obtain ⟨t, ht, hparams, hturns⟩ : ∃ t,
        exec i (s.setTurns (.host (.read (wordAddr s.params r.index j) 4) :: rest)) = .next t ∧
        t.params = s.params ∧ t.turns = .host (.read (wordAddr s.params r.index j) 4) :: rest :=
      ⟨_, exec_eq_complete i _, by simp, by simp⟩
    have hengine : step s = .next t := by
      rw [step_of_turns h, ← ht]
      exact engineStep_command (s := s.setTurns _) hb hi
    have hread := step_read_reg (s := t) (rest := rest) r (hparams ▸ hp) hj (hparams ▸ hturns)
    rw [hparams] at hread
    exact ⟨t, ht, (core_run_succ 1 hengine).trans (core_run_succ 0 hread)⟩

/-! ## What a write changes -/

/-- A `w`-bit value has no bit at or above its width (R38). -/
theorem testBit_of_width_le {v w i : Nat} (hv : v < 2 ^ w) (h : w ≤ i) : v.testBit i = false :=
  Nat.testBit_lt_two_pow (hv.trans_le (Nat.pow_le_pow_right two_pos h))

/-- The new value of a `w`-bit register, bit by bit (R46, R47, R49): in the addressed word the data's bits below the
width, and elsewhere the old ones. -/
theorem testBit_replaceWord_mod {v w : Nat} (hv : v < 2 ^ w) (j : Nat) (d : Word) (i : Nat) :
    (replaceWord v j d % 2 ^ w).testBit i =
      if 32 * j ≤ i ∧ i < 32 * j + 32 then decide (i < w) && d.getLsbD (i - 32 * j) else v.testBit i := by
  rw [Nat.testBit_mod_two_pow, replaceWord_testBit]
  split
  · rfl
  · by_cases hi : i < w
    · simp [hi]
    · simp [hi, testBit_of_width_le hv (not_lt.1 hi)]

theorem Operands.set_get (o : Operands) (r : OpReg) : o.set r (o.get r) = o := by
  cases r <;> rfl

theorem le_of_wordsOfWidth_le {w j : Nat} (h : wordsOfWidth w ≤ j) : w ≤ 32 * j := by
  unfold wordsOfWidth at h
  omega

/-- A word beyond the register has no bit of it (R48). -/
theorem replaceWord_mod_of_beyond {v w j : Nat} (hv : v < 2 ^ w) (h : wordsOfWidth w ≤ j) (d : Word) :
    replaceWord v j d % 2 ^ w = v := by
  have hw := le_of_wordsOfWidth_le h
  apply Nat.eq_of_testBit_eq
  intro i
  rw [testBit_replaceWord_mod hv]
  split
  · have hi : w ≤ i := by omega
    simp [hi, testBit_of_width_le hv hi]
  · rfl

/-- An aligned write to an operand register whose value is in range, whatever the word (R46 to R49). -/
theorem writeWord_operand {s : State} {r : OpReg} (hr : s.ops.get r < 2 ^ r.width s.params) (j : Nat) (d : Word) :
    s.writeWord r.index j d =
      s.setOps (s.ops.set r (replaceWord (s.ops.get r) j d % 2 ^ r.width s.params)) := by
  simp only [State.writeWord, OpReg.ofIndex_index]
  split
  · rfl
  · rw [replaceWord_mod_of_beyond hr (not_lt.1 ‹_›), Operands.set_get]
    rfl

/-- The step of an aligned write to an operand register. -/
theorem step_write_operand {s : State} {rest : List Turn} {r : OpReg} {j : Nat} {d : Word} (hp : s.params.wf = true)
    (hs : s.ops.InRange s.params) (hj : j < 64)
    (h : s.turns = .host (.write (wordAddr s.params r.index j) 4 d) :: rest) :
    step s = .next { logged s rest (.write (wordAddr s.params r.index j) 4 d) ⟨none, false⟩ with
      ops := s.ops.set r (replaceWord (s.ops.get r) j d % 2 ^ r.width s.params) } := by
  have hn : r.index ≤ 0x1F := by have := r.index_le; omega
  have hstep := step_write s rest r.index j d hp hn hj h
  rw [writeWord_operand (s := s.setTurns rest) (hs r)] at hstep
  exact hstep

/-- Settles O13: the operand register after the write, bit by bit, and the other ones. -/
theorem operandWriteReplacesTheWord : Obligations.OperandWriteReplacesTheWord := by
  intro s rest r j d hp hs hj h
  refine ⟨_, step_write_operand hp hs hj h, fun i => ?_, fun r' hr' => Operands.get_set_other _ _ hr',
    Operands.set_aInf _ _ _, Operands.set_bInf _ _ _⟩
  rw [Operands.get_set_same, testBit_replaceWord_mod (hs r)]

/-- A read of an operand register returns 32 of its bits, and 0 where it has none (R45, R48). -/
theorem readData_operand_getLsbD {s : State} {r : OpReg} (hr : s.ops.get r < 2 ^ r.width s.params) (j : Nat) {i : Nat}
    (hi : i < 32) : (readData s (.operand r) j).getLsbD i = (s.ops.get r).testBit (32 * j + i) := by
  have hread : readData s (.operand r) j =
      if j < wordsOfWidth (r.width s.params) then BitVec.ofNat 32 (s.ops.get r / 2 ^ (32 * j)) else 0 := by
    simp only [readData, wordCount_eq_words, registerValue_eq_readReg, Reg.words, State.readReg, ne_eq, reduceCtorEq,
      not_false_eq_true, true_and]
  rw [hread]
  split
  · rw [BitVec.getLsbD_ofNat, Nat.testBit_div_two_pow, Nat.add_comm]
    simp [hi]
  · have hw : r.width s.params ≤ 32 * j + i := by
      have := le_of_wordsOfWidth_le (not_lt.1 ‹_›)
      omega
    simp [testBit_of_width_le hr hw]

/-- Settles O14: the write's step, then the read's. -/
theorem readAfterWriteReturnsTheData : Obligations.ReadAfterWriteReturnsTheData := by
  intro s rest r j d hp hs hj h
  have hw := step_write_operand hp hs hj h
  have hr := step_read_reg (s := { logged s (.host (.read (wordAddr s.params r.index j) 4) :: rest)
    (.write (wordAddr s.params r.index j) 4 d) ⟨none, false⟩ with
      ops := s.ops.set r (replaceWord (s.ops.get r) j d % 2 ^ r.width s.params) }) (.operand r) hp hj rfl
  refine ⟨_, _, (core_run_succ 1 hw).trans (core_run_succ 0 hr), List.append_assoc _ _ _, fun i hi => ?_⟩
  rw [readData_operand_getLsbD (Operands.set_inRange hs r _ r) j hi, Operands.get_set_same,
    testBit_replaceWord_mod (hs r), if_pos (by omega), Nat.add_sub_cancel_left]

/-! ## Writes that are ignored -/

/-- A write to a register that only the engine writes, or to PARAMS (R17, R46). -/
theorem writeWord_readOnly (s : State) {r : Reg} (hr : IsReadOnly r) (j : Nat) (d : Word) :
    s.writeWord r.index j d = s := by
  rcases hr with rfl | rfl | rfl | rfl | rfl | rfl | rfl | rfl | rfl | rfl | rfl <;> rfl

theorem writeWord_reserved (s : State) {n : Nat} (hn : 0x1B ≤ n) (j : Nat) (d : Word) : s.writeWord n j d = s := by
  simp only [State.writeWord, Reg.ofIndex_reserved hn]

/-- CMD, STATUS and OPFLAGS have one word (R32, R48). -/
theorem writeWord_beyond_flags (s : State) {n j : Nat} (hn : n = 1 ∨ n = 2 ∨ n = 3) (hj : j ≠ 0) (d : Word) :
    s.writeWord n j d = s := by
  rcases hn with rfl | rfl | rfl <;> exact if_neg hj

/-- Settles O15: each kind of ignored location leaves the state as it is. -/
theorem ignoredWritesChangeNothing : Obligations.IgnoredWritesChangeNothing := by
  intro s rest n j d hp hj hloc h
  have hignored : n ≤ 0x1F ∧ (s.setTurns rest).writeWord n j d = s.setTurns rest := by
    rcases hloc with ⟨r, hr, rfl⟩ | ⟨hlow, hhigh⟩ | ⟨hn, hj1⟩
    · exact ⟨by have := r.index_lt; omega, writeWord_readOnly _ hr j d⟩
    · exact ⟨hhigh, writeWord_reserved _ hlow j d⟩
    · exact ⟨by omega, writeWord_beyond_flags _ hn (by omega) d⟩
  obtain ⟨hn, hw⟩ := hignored
  have hstep := step_write s rest n j d hp hn hj h
  rw [hw] at hstep
  exact hstep

end Sys2Proof.Machine

/-! # Proofs of the family 30_encoding: command words and their bytes, illegal words, and the host script -/

namespace Sys2Proof.Laws

open Sys2Proof.Machine

/-! ## Command words as bytes (R47, R65) -/

/-- Four byte lanes read as a word and written again are the same lanes (R47). -/
theorem bytesOfWord_wordOfBytes (b0 b1 b2 b3 : Byte) : bytesOfWord (wordOfBytes b0 b1 b2 b3) = [b0, b1, b2, b3] := by
  have := b0.isLt; have := b1.isLt; have := b2.isLt; have := b3.isLt
  simp only [bytesOfWord, wordOfBytes_toNat, List.cons.injEq, and_true, BitVec.toNat_eq, BitVec.toNat_ofNat]
  omega

/-- The head of a list of bytes is a command exactly when its word decodes to that command. -/
theorem decodeBytes_cons_eq_ok (b0 b1 b2 b3 : Byte) (tail : List Byte) (i : Instr) (rest : List Byte) :
    decodeBytes (b0 :: b1 :: b2 :: b3 :: tail) = .ok (i, rest) ↔
      decodeWord (wordOfBytes b0 b1 b2 b3) = .ok i ∧ tail = rest := by
  rw [decodeBytes]
  cases decodeWord (wordOfBytes b0 b1 b2 b3) <;> simp

theorem decodeBytes_encodeBytes_append (i : Instr) (rest : List Byte) :
    decodeBytes (encodeBytes i ++ rest) = .ok (i, rest) := by
  refine (decodeBytes_cons_eq_ok _ _ _ _ _ _ _).2 ⟨?_, rfl⟩
  rw [wordOfBytes_lanes, decodeWord_eq_ok]

theorem eq_encodeBytes_append_of_decodeBytes {bs rest : List Byte} {i : Instr} (h : decodeBytes bs = .ok (i, rest)) :
    bs = encodeBytes i ++ rest := by
  match bs with
  | b0 :: b1 :: b2 :: b3 :: tail =>
    obtain ⟨hw, rfl⟩ := (decodeBytes_cons_eq_ok _ _ _ _ _ _ _).1 h
    rw [encodeBytes, ← (decodeWord_eq_ok _ _).1 hw, bytesOfWord_wordOfBytes]
    rfl
  | [] | [_] | [_, _] | [_, _, _] => cases h

/-- Settles O3: a command's word is read back from its byte lanes, and a decoded word's lanes are the bytes read. -/
theorem decodeAndEncodeAgree : Obligations.DecodeAndEncodeAgree :=
  ⟨fun i rest _ => decodeBytes_encodeBytes_append i rest, fun _ _ _ => eq_encodeBytes_append_of_decodeBytes⟩

/-! ## What an accept latches, by the fields of the word (R59, R61) -/

theorem busyOp_eq_command_iff (w : Word) (i : Instr) : busyOp w = .command i ↔ w = encode i := by
  rw [← decodeWord_eq_ok, busyOp]
  cases decodeWord w <;> simp

/-- The words of the opcode map are the numbers 1 to 5 (R60). -/
theorem exists_eq_encode_iff (w : Word) : (∃ i, w = encode i) ↔ 1 ≤ w.toNat ∧ w.toNat ≤ 5 := by
  constructor
  · rintro ⟨i, rfl⟩
    cases i <;> decide
  · rintro ⟨hlow, hhigh⟩
    have hw : w.toNat = 1 ∨ w.toNat = 2 ∨ w.toNat = 3 ∨ w.toNat = 4 ∨ w.toNat = 5 := by omega
    rcases hw with hw | hw | hw | hw | hw
    exacts [⟨.modinv, BitVec.eq_of_toNat_eq hw⟩, ⟨.curveLoad, BitVec.eq_of_toNat_eq hw⟩,
      ⟨.pdbl, BitVec.eq_of_toNat_eq hw⟩, ⟨.padd, BitVec.eq_of_toNat_eq hw⟩, ⟨.pmul, BitVec.eq_of_toNat_eq hw⟩]

/-- A word is ILLEGAL exactly when it is no word of the opcode map (R61, R62). -/
theorem busyOp_eq_illegal_iff (w : Word) : busyOp w = .illegal ↔ w.toNat = 0 ∨ 5 < w.toNat := by
  have hnot : busyOp w = .illegal ↔ ¬∃ i, w = encode i := by
    simp only [← decodeWord_eq_ok, busyOp]
    cases decodeWord w <;> simp
  rw [hnot, exists_eq_encode_iff]
  omega

/-- A word is its RSVD field above its OPCODE field (R59). -/
theorem toNat_eq_fields (w : Word) :
    w.toNat = 16 * (w.extractLsb' 4 28).toNat + (w.extractLsb' 0 4).toNat := by
  have := w.isLt
  simp only [BitVec.extractLsb'_toNat, Nat.shiftRight_eq_div_pow]
  omega

/-- A command is latched exactly when RSVD is 0 and OPCODE is the command's (R61). -/
theorem busyOp_eq_command_iff_fields (w : Word) (i : Instr) :
    busyOp w = .command i ↔ w.extractLsb' 4 28 = 0 ∧ w.extractLsb' 0 4 = (encode i).extractLsb' 0 4 := by
  have hrsvd : (encode i).extractLsb' 4 28 = 0 := by cases i <;> rfl
  rw [busyOp_eq_command_iff]
  constructor
  · rintro rfl
    exact ⟨hrsvd, rfl⟩
  · rintro ⟨hw, hop⟩
    apply BitVec.eq_of_toNat_eq
    rw [toNat_eq_fields w, toNat_eq_fields (encode i), hw, hop, hrsvd]

theorem busyOp_eq_illegal_iff_fields (w : Word) :
    busyOp w = .illegal ↔ w.extractLsb' 4 28 ≠ 0 ∨ w.extractLsb' 0 4 = 0 ∨ 5 < (w.extractLsb' 0 4).toNat := by
  rw [busyOp_eq_illegal_iff, toNat_eq_fields]
  bv_omega

/-- Settles O2: the six answers, each by the two fields. -/
theorem decodeIsTotalAndExact : Obligations.DecodeIsTotalAndExact := fun w =>
  ⟨busyOp_eq_illegal_iff_fields w, busyOp_eq_command_iff_fields w .modinv, busyOp_eq_command_iff_fields w .curveLoad,
    busyOp_eq_command_iff_fields w .pdbl, busyOp_eq_command_iff_fields w .padd, busyOp_eq_command_iff_fields w .pmul,
    busyOp_ne_empty w⟩

/-- Settles O1, word by word. -/
theorem opcodeMapWordsDecode : Obligations.OpcodeMapWordsDecode := by
  unfold Obligations.OpcodeMapWordsDecode
  decide

end Sys2Proof.Laws

namespace Sys2Proof.Machine

open Sys2Proof.Laws Sys2Proof.Machine.Claim

/-! ## Illegal words (R62, R104) -/

/-- The engine's step while an illegal word is in the latch (R104). -/
theorem engineStep_illegal {s : State} (hb : s.status.busy = true) (hi : s.latch.op = .illegal) :
    engineStep s = .next s.completeIllegal := by
  simp only [engineStep, hb, hi, if_true]

/-- Settles O24: the accept's step (O16), and the engine's completion of what it latched. -/
theorem illegalWordCompletesWithCode7 : Obligations.IllegalWordCompletesWithCode7 := by
  intro s rest w hp hb hw h
  have haccept := cmdWriteIsAcceptedWhenIdle s (.engine :: rest) w hp hb h
  have hop : busyOp w = .illegal := (busyOp_eq_illegal_iff w).2 hw
  rw [core_run_succ 1 haccept]
  refine core_run_succ 0 ((step_of_turns rfl).trans ?_)
  rw [runTurn, engineStep_illegal rfl hop]
  rfl

/-! ## The host script (R69, R70) -/

/-- A write of the host leaves the agents around the block. -/
theorem writeWord_agents (s : State) (n j : Nat) (d : Word) :
    (s.writeWord n j d).script = s.script ∧ (s.writeWord n j d).trace = s.trace := by
  rcases writeWord_cases s n j d with
    e | ⟨-, -, -, e⟩ | ⟨-, -, -, e⟩ | ⟨-, -, e⟩ | ⟨-, -, e⟩ | ⟨r, -, -, e⟩ <;> rw [e] <;> exact ⟨rfl, rfl⟩

/-- A transaction leaves the script, and it is what the record gains (R134). -/
theorem busTransact_agents {req : BusRequest} {s t : State} {resp : Response}
    (h : busTransact req s = .next (t, resp)) : t.script = s.script ∧ t.trace = s.trace ++ [⟨req, resp⟩] := by
  rcases busTransact_cases h with rfl | ⟨n, j, d, rfl⟩
  · exact ⟨rfl, rfl⟩
  · obtain ⟨hscript, htrace⟩ := writeWord_agents s n j d
    exact ⟨hscript, congrArg (· ++ _) htrace⟩

/-- A host turn that completes is one transaction. -/
theorem busTransact_of_step {req : BusRequest} {s t : State} {rest : List Turn}
    (h : step { s with turns := .host req :: rest } = .next t) :
    ∃ resp, busTransact req (s.setTurns rest) = .next (t, resp) := by
  rw [step_of_turns rfl] at h
  exact hostStep_next h

/-- The script's turn runs the statement at pc (R69). -/
theorem step_of_script {s : State} {rest : List Turn} {st : Stmt} (h : s.turns = .script :: rest)
    (hst : s.script.prog[s.script.pc]? = some st) : step s = (s.setTurns rest).runStmt st := by
  rw [step_of_turns h, runTurn, State.scriptStep, State.setTurns_script, hst]

/-- `sw` is the host's own write, and then pc advances (R69). -/
theorem scriptStore_of_step {s t : State} {rest : List Turn} {loc : Loc} {v : Word}
    (h : step { s with turns := .host (.write (s.params.base + loc.off) 4 v) :: rest } = .next t) :
    (s.setTurns rest).scriptStore loc v = .next (t.setScript s.script.advance) := by
  obtain ⟨resp, hbus⟩ := busTransact_of_step h
  obtain ⟨hscript, -⟩ := busTransact_agents hbus
  rw [State.scriptStore, State.setTurns_params, hbus]
  exact congrArg (fun sc : HostScript => Host.Outcome.next (t.setScript sc.advance)) hscript

/-- `lw` is the host's own read, whose data goes to the scratch register, and then pc advances (R69). -/
theorem scriptLoad_of_step {s t : State} {rest : List Turn} {loc : Loc} {d : Tmp} {v : Word} {err : Bool}
    (h : step { s with turns := .host (.read (s.params.base + loc.off) 4) :: rest } = .next t)
    (htrace : t.trace = s.trace ++ [⟨.read (s.params.base + loc.off) 4, ⟨some v, err⟩⟩]) :
    (s.setTurns rest).scriptLoad d loc = .next (t.setScript (s.script.setTmp d v).advance) := by
  obtain ⟨resp, hbus⟩ := busTransact_of_step h
  obtain ⟨hscript, hrecord⟩ := busTransact_agents hbus
  have hresp : resp = ⟨some v, err⟩ := by simpa [htrace] using hrecord.symm
  rw [State.scriptLoad, State.setTurns_params, hbus, hresp]
  exact congrArg (fun sc : HostScript => Host.Outcome.next (t.setScript (sc.setTmp d v).advance)) hscript

/-- A branch moves pc alone, to its label or to the next statement (R69). -/
theorem jump_or_advance (c : Prop) [Decidable c] (label : Nat) (h : HostScript) :
    (if c then h.jump label else h.advance) = ⟨h.prog, if c then label else h.pc + 1, h.tmp⟩ := by
  split <;> rfl

/-- Settles O59: the statement at pc runs, form by form. -/
theorem scriptStatementsDoWhatTheySay : Obligations.ScriptStatementsDoWhatTheySay := by
  intro s rest st hturns hst
  have hstep := step_of_script hturns hst
  refine ⟨?andi, ?addi, ?bnez, ?beqz, ?stop, ?sw, ?lw⟩
  case andi | addi =>
    rintro d q imm rfl
    exact hstep
  case bnez | beqz =>
    rintro q label rfl
    rw [hstep, State.runStmt, jump_or_advance]
    rfl
  case stop =>
    rintro rfl
    exact hstep
  case sw =>
    rintro loc v t (rfl | ⟨q, rfl, rfl⟩) h <;> exact hstep.trans (scriptStore_of_step h)
  case lw =>
    rintro d loc v err t rfl h htrace
    exact hstep.trans (scriptLoad_of_step h htrace)

/-- Settles O60, expansion by expansion. -/
theorem pseudoInstructionsExpand : Obligations.PseudoInstructionsExpand := by
  unfold Obligations.PseudoInstructionsExpand
  decide

end Sys2Proof.Machine

/-! # Proofs of the family 40_modinv: the Euclidean loop, MODINV, and the inverse that a point command lacks -/

namespace Sys2Proof.Laws

open Sys2Proof.Machine

/-! ## The bounds of the Euclidean loop (R76) -/

/-- What every pass keeps, the loop keeps. -/
theorem euclidRun_keeps {Q : Euclid → Prop} (hnext : ∀ e, e.r1 ≠ 0 → Q e → Q (euclidNext e)) (n : Nat) {e : Euclid}
    (h : Q e) : Q (euclidRun n e) := by
  induction n generalizing e with
  | zero => exact h
  | succ n ih =>
    unfold euclidRun
    split
    · exact h
    · exact ih (hnext e ‹_› h)

/-- A pass at least halves the product of the two remainders, since `r0` is at least `r1 + r0 % r1`. -/
theorem euclidNext_product {e : Euclid} (h : e.r1 ≤ e.r0) (h1 : e.r1 ≠ 0) :
    2 * ((euclidNext e).r0 * (euclidNext e).r1) ≤ e.r0 * e.r1 := by
  have hsplit : e.r1 + e.r0 % e.r1 ≤ e.r0 := by
    have hquot : e.r1 ≤ e.r1 * (e.r0 / e.r1) := Nat.le_mul_of_pos_right _ (Nat.div_pos h (Nat.pos_of_ne_zero h1))
    have := Nat.div_add_mod e.r0 e.r1
    omega
  have hlt : e.r0 % e.r1 < e.r1 := Nat.mod_lt _ (Nat.pos_of_ne_zero h1)
  rw [euclidNext_r0, euclidNext_r1]
  calc 2 * (e.r1 * (e.r0 % e.r1)) = (2 * (e.r0 % e.r1)) * e.r1 := by ring
    _ ≤ e.r0 * e.r1 := Nat.mul_le_mul_right _ (by omega)

/-- So the loop has ended after as many passes as that product has bits. -/
theorem euclidRun_ends_of_product_lt (n : Nat) {e : Euclid} (h : e.r1 ≤ e.r0) (hn : e.r0 * e.r1 < 2 ^ n) :
    (euclidRun n e).r1 = 0 := by
  induction n generalizing e with
  | zero =>
    have hzero : e.r0 * e.r1 = 0 := by simpa using hn
    rcases Nat.mul_eq_zero.1 hzero with h0 | h1
    · exact Nat.le_zero.1 (h.trans_eq h0)
    · exact h1
  | succ n ih =>
    unfold euclidRun
    split
    · assumption
    · rename_i h1
      have hprod := euclidNext_product h h1
      refine ih ?_ (by rw [pow_succ] at hn; omega)
      rw [euclidNext_r0, euclidNext_r1]
      exact (Nat.mod_lt _ (Nat.pos_of_ne_zero h1)).le

/-- The loop's coefficients against its remainders: each coefficient times the other remainder, in magnitude, adds up
to at most `p`, so a coefficient whose cofactor is positive is at most `p`. -/
def CoefficientsBounded (p : Nat) (e : Euclid) : Prop :=
  0 < e.r0 ∧ |e.t0| ≤ p ∧ |e.t1| * e.r0 + |e.t0| * e.r1 ≤ p

theorem CoefficientsBounded.t1_le {p : Nat} {e : Euclid} (h : CoefficientsBounded p e) : |e.t1| ≤ p := by
  obtain ⟨hr0, -, hsum⟩ := h
  have ht1 : |e.t1| ≤ |e.t1| * e.r0 := le_mul_of_one_le_right (abs_nonneg _) (by exact_mod_cast hr0)
  have ht0 : 0 ≤ |e.t0| * e.r1 := by positivity
  omega

theorem coefficientsBounded_start {p : Nat} (value : Int) (hp : 0 < p) :
    CoefficientsBounded p (euclidStart p value) := by
  simp [CoefficientsBounded, euclidStart, hp]

/-- The new coefficient `t0 - q * t1` is at most `|t0| + q * |t1|`, and `r0 = q * r1 + r0 % r1`. -/
theorem CoefficientsBounded.next {p : Nat} {e : Euclid} (h1 : e.r1 ≠ 0) (h : CoefficientsBounded p e) :
    CoefficientsBounded p (euclidNext e) := by
  refine ⟨Nat.pos_of_ne_zero h1, h.t1_le, ?_⟩
  obtain ⟨-, -, hsum⟩ := h
  have ht : |(euclidNext e).t1| ≤ |e.t0| + (e.r0 / e.r1 : Nat) * |e.t1| :=
    (abs_sub e.t0 _).trans_eq (by rw [abs_mul, Nat.abs_cast])
  have hr : (e.r0 : Int) = e.r1 * (e.r0 / e.r1 : Nat) + (e.r0 % e.r1 : Nat) := by
    exact_mod_cast (Nat.div_add_mod e.r0 e.r1).symm
  rw [euclidNext_r0, euclidNext_r1]
  calc |(euclidNext e).t1| * e.r1 + |e.t1| * (e.r0 % e.r1 : Nat)
      ≤ (|e.t0| + (e.r0 / e.r1 : Nat) * |e.t1|) * e.r1 + |e.t1| * (e.r0 % e.r1 : Nat) := by gcongr
    _ = |e.t1| * (e.r1 * (e.r0 / e.r1 : Nat) + (e.r0 % e.r1 : Nat)) + |e.t0| * e.r1 := by ring
    _ = |e.t1| * e.r0 + |e.t0| * e.r1 := by rw [← hr]
    _ ≤ p := hsum

/-- Settles O33: the product of the remainders starts below `p ^ 2`, and every pass keeps the coefficients' bound. -/
theorem euclidLoopIsBounded : Obligations.EuclidLoopIsBounded := by
  intro p value hp
  have hr1 : zmod value p ≤ p := (zmod_lt value (by omega)).le
  have hsize := Nat.lt_size_self p
  constructor
  · refine euclidRun_ends_of_product_lt _ hr1 ?_
    calc p * zmod value p ≤ p * p := Nat.mul_le_mul_left _ hr1
      _ < 2 ^ Nat.size p * 2 ^ Nat.size p := Nat.mul_lt_mul'' hsize hsize
      _ = 2 ^ (2 * Nat.size p) := by ring
      _ ≤ 2 ^ (2 * Nat.size p + 1) := Nat.pow_le_pow_right two_pos (Nat.le_succ _)
  · intro n
    have h : CoefficientsBounded p (euclidRun n (euclidStart p value)) :=
      euclidRun_keeps (fun _ => CoefficientsBounded.next) n (coefficientsBounded_start value (by omega))
    have ht1 := h.t1_le
    obtain ⟨-, ht0, -⟩ := h
    exact ⟨ht0, ht1⟩

/-! ## The contract of the inverse (R71, R73) -/

theorem gcd_zmod (a : Int) {m : Nat} (h : 0 < m) : Nat.gcd (zmod a m) m = Int.gcd a m := by
  rw [← Int.gcd_natCast_natCast, zmod_cast a h, Int.gcd_emod]

/-- At the loop's end `r0` is the gcd of the value and the modulus. -/
theorem euclidRun_end_r0 {p : Nat} (value : Int) (hp : 0 < p) :
    (euclidRun p (euclidStart p value)).r0 = Int.gcd value p := by
  have hend := euclidRun_ends p (euclidStart p value) (zmod_lt value hp).le
  have hgcd := euclidRun_gcd p (euclidStart p value)
  rw [hend, Nat.gcd_zero_right] at hgcd
  exact hgcd.trans ((Nat.gcd_comm _ _).trans (gcd_zmod value hp))

/-- Without an inverse, or with a modulus below 2, there is only the one error (R71). -/
theorem modInv_eq_error {p : Nat} {value : Int} (h : p < 2 ∨ Int.gcd value p ≠ 1) :
    modInv p value = .error .divisionUndefined := by
  unfold modInv
  split
  · rfl
  · rename_i hp
    have hgcd : (euclidRun p (euclidStart p value)).r0 ≠ 1 := by
      rw [euclidRun_end_r0 value (by omega)]
      exact h.resolve_left hp
    exact if_pos hgcd

/-- Two inverses of one value are congruent: each is the other times `value * v ≡ 1`. -/
theorem inverse_unique {p v v' : Nat} {value : Int} (hv : value * v ≡ 1 [ZMOD p]) (hv' : value * v' ≡ 1 [ZMOD p])
    (hlt : v < p) (hlt' : v' < p) : v' = v := by
  have h : (v' : Int) ≡ v [ZMOD p] := calc
    (v' : Int) = v' * 1 := (mul_one _).symm
    _ ≡ v' * (value * v) [ZMOD p] := hv.symm.mul_left _
    _ = v * (value * v') := by ring
    _ ≡ v * 1 [ZMOD p] := hv'.mul_left _
    _ = v := mul_one _
  exact (Int.natCast_modEq_iff.1 h).eq_of_lt_of_lt hlt' hlt

theorem modEq_one_iff {p : Nat} (hp : 2 ≤ p) (a : Int) : a ≡ 1 [ZMOD p] ↔ a % p = 1 := by
  rw [Int.ModEq, Int.emod_eq_of_lt one_pos.le (by omega : (1 : Int) < p)]

/-- Settles O32: the loop's coefficient is an inverse, inverses are unique, and the loop ends at the gcd. -/
theorem modInvMeetsItsContract : Obligations.ModInvMeetsItsContract := by
  intro p value
  rw [Int.gcd_emod]
  refine ⟨fun hp hgcd => ?_, modInv_eq_error⟩
  obtain ⟨v, hv⟩ := modInv_of_coprime hp ((gcd_zmod value (by omega)).trans hgcd)
  obtain ⟨-, hlt, hinv⟩ := modInv_eq_ok hv
  exact ⟨v, hv, hlt, (modEq_one_iff hp _).1 hinv,
    fun v' hlt' hv' => inverse_unique hinv ((modEq_one_iff hp _).2 hv') hlt hlt'⟩

/-- Inside a point operation a missing inverse is an InvariantViolation (R74). -/
theorem modInvInternal_eq_error {p : Nat} {d : Int} (h : Int.gcd d p ≠ 1) :
    modInvInternal p d = .error .invariantViolation := by
  rw [modInvInternal, modInv_eq_error (.inr h)]

end Sys2Proof.Laws

namespace Sys2Proof.Machine

open Sys2Proof.Laws Sys2Proof.Machine.Claim

/-! ## MODINV (R72) -/

/-- A command that raises completes with its error's code and writes nothing else (R108). -/
theorem exec_of_error {i : Instr} {s : State} {e : ErrorKind}
    (h : commandOutcome s.params s.latch.snapshot i = .error e) : exec i s = .next (endsWithError s e.code) := by
  rw [exec_eq_complete, h, complete_error]
  rfl

/-- Settles O34: the value is coprime to the modulus, so ModInv answers, and MODINV writes its answer. -/
theorem modinvWritesTheInverse : Obligations.ModinvWritesTheInverse := by
  rintro s p v rfl rfl hp hgcd
  obtain ⟨r, hr⟩ := modInv_of_coprime (value := (s.latch.snapshot.ops.invV : Int)) hp (by rwa [zmod_natCast])
  obtain ⟨-, hlt, hinv⟩ := modInv_eq_ok hr
  refine ⟨r, hlt, by exact_mod_cast (modEq_one_iff hp _).1 hinv, ?_⟩
  have hout : commandOutcome s.params s.latch.snapshot .modinv = .ok (.inverse r) := by
    rw [commandOutcome, evalModinv, hr]
  rw [exec_eq_complete, hout, complete_inverse]
  rfl

/-- Settles O35: ModInv has only the error DivisionUndefined, and MODINV passes it on. -/
theorem modinvReportsDivisionUndefined : Obligations.ModinvReportsDivisionUndefined := by
  rintro s p v rfl rfl h
  have hgcd : s.latch.snapshot.ops.invP < 2 ∨
      Int.gcd (s.latch.snapshot.ops.invV : Int) s.latch.snapshot.ops.invP ≠ 1 := by
    rw [← Int.gcd_emod]
    exact_mod_cast h
  refine exec_of_error (e := .divisionUndefined) ?_
  rw [commandOutcome, evalModinv, modInv_eq_error hgcd]

/-! ## A point command whose inverse does not exist (R74, R105) -/

theorem pointDouble_eq_error {c : FieldCurve} {x y : Nat} (hlt : y < c.p) (hy : y ≠ 0)
    (h : Nat.gcd (2 * y) c.p ≠ 1) : pointDouble c (.aff x y) = .error .invariantViolation := by
  have hy' : zmod y c.p ≠ 0 := by rwa [zmod_natCast, Nat.mod_eq_of_lt hlt]
  have hgcd : Int.gcd (2 * (y : Int)) c.p ≠ 1 := by exact_mod_cast h
  rw [pointDouble, if_neg hy', modInvInternal_eq_error hgcd]

theorem pointAdd_eq_error {c : FieldCurve} {x1 y1 x2 y2 : Nat} (hlt : x1 < c.p) (hx : x1 ≠ x2)
    (h : Nat.gcd (x2 + (c.p - x1)) c.p ≠ 1) :
    pointAdd c (.aff x1 y1) (.aff x2 y2) = .error .invariantViolation := by
  have hdiff : ((x2 + (c.p - x1) : Nat) : Int) = ((x2 : Int) - x1) + c.p := by omega
  have hgcd : Int.gcd ((x2 : Int) - x1) c.p ≠ 1 := by
    rwa [← Int.gcd_add_self_left, ← hdiff, Int.gcd_natCast_natCast]
  rw [pointAdd, if_neg (fun heq => hx heq.1), if_neg hx, modInvInternal_eq_error hgcd]

/-- Settles O48: the operands pass their checks, and the inverse of the tangent or the secant is missing. -/
theorem missingInverseIsAnInvariantViolation : Obligations.MissingInverseIsAnInvariantViolation := by
  rintro s c x1 y1 x2 y2 rfl hv hA h1
  have honA : onCurve s.latch.snapshot.curve (.aff x1 y1) = true := (onCurve_iff_passes _ _).2 h1
  obtain ⟨hx1, hy1, -⟩ := h1
  constructor
  · intro hy hgcd
    refine exec_of_error (e := .invariantViolation) ?_
    rw [commandOutcome, evalPdbl, hA, onLoadedCurve_of_passed _ hv (by simpa using honA),
      pointDouble_eq_error hy1 hy hgcd, pointWrites]
  · intro hB h2 hx hgcd
    have honB : onCurve s.latch.snapshot.curve (.aff x2 y2) = true := (onCurve_iff_passes _ _).2 h2
    refine exec_of_error (e := .invariantViolation) ?_
    rw [commandOutcome, evalPadd, hA, hB, onLoadedCurve_of_passed _ hv (by simpa using ⟨honA, honB⟩),
      pointAdd_eq_error hx1 hx hgcd, pointWrites]

end Sys2Proof.Machine

/-! # Proofs of the family 41_curve_load: CurveCheck and CURVE_LOAD -/

namespace Sys2Proof.Laws

open Sys2Proof.Machine Sys2Proof.Machine.Claim

/-! ## The branches of CurveCheck (R77, R78) -/

theorem discriminant_eq_mod (c : FieldCurve) : discriminant c = (4 * c.a ^ 3 + 27 * c.b ^ 2) % c.p := by
  rw [← zmod_natCast, discriminant]
  push_cast
  rfl

/-- A modulus below 3, or a zero discriminant of the reduced coefficients, ends CurveCheck before it looks at G. -/
theorem curveCheck_of_singular {a b p : Nat} (n gx gy : Nat)
    (h : p < 3 ∨ (4 * (a % p) ^ 3 + 27 * (b % p) ^ 2) % p = 0) :
    curveCheck a b p n gx gy = .error .singularCurve := by
  unfold curveCheck
  split
  · rfl
  · rename_i hp
    simp only [zmod_natCast, discriminant_eq_mod]
    exact if_pos (h.resolve_left hp)

/-- On a non-singular curve the check of G alone decides. -/
theorem curveCheck_of_nonsingular {a b p : Nat} (n gx gy : Nat) (hp : 3 ≤ p)
    (hdisc : (4 * (a % p) ^ 3 + 27 * (b % p) ^ 2) % p ≠ 0) :
    curveCheck a b p n gx gy =
      if onCurve ⟨a % p, b % p, p⟩ (.aff gx gy) then .ok ⟨true, a % p, b % p, p, n, gx, gy⟩
      else .error .pointNotOnCurve := by
  simp only [curveCheck, zmod_natCast, discriminant_eq_mod, if_neg (not_lt.2 hp), if_neg hdisc]
  cases onCurve ⟨a % p, b % p, p⟩ (.aff gx gy) <;> rfl

theorem onCurve_aff_iff_liesOn (c : FieldCurve) (x y : Nat) : onCurve c (.aff x y) = true ↔ LiesOn c x y :=
  onCurve_iff_passes c (.aff x y)

end Sys2Proof.Laws

namespace Sys2Proof.Machine

open Sys2Proof.Laws Sys2Proof.Machine.Claim

/-! ## CURVE_LOAD (R80) -/

/-- Settles O36: CurveCheck passes its three checks, and CURVE_LOAD writes the curve it answers. -/
theorem curveLoadLoadsTheCurve : Obligations.CurveLoadLoadsTheCurve := by
  rintro s _ _ _ _ _ _ rfl rfl rfl rfl rfl rfl hp hdisc hG
  have hcheck := curveCheck_of_nonsingular s.latch.snapshot.ops.cfgN s.latch.snapshot.ops.cfgGx
    s.latch.snapshot.ops.cfgGy hp hdisc
  rw [if_pos ((onCurve_aff_iff_liesOn _ _ _).2 hG)] at hcheck
  rw [exec_eq_complete, commandOutcome, evalCurveLoad, hcheck, complete_curve]
  rfl

/-- CURVE_LOAD passes an error of CurveCheck on. -/
theorem exec_curveLoad_of_error {s : State} {e : ErrorKind}
    (h : curveCheck s.latch.snapshot.ops.cfgA s.latch.snapshot.ops.cfgB s.latch.snapshot.ops.cfgP
      s.latch.snapshot.ops.cfgN s.latch.snapshot.ops.cfgGx s.latch.snapshot.ops.cfgGy = .error e) :
    exec .curveLoad s = .next (endsWithError s e.code) :=
  exec_of_error (by rw [commandOutcome, evalCurveLoad, h])

/-- Settles O37: CurveCheck looks at the modulus and the discriminant first, and at G only after them. -/
theorem curveLoadFailureKeepsTheCurve : Obligations.CurveLoadFailureKeepsTheCurve := by
  rintro s _ _ _ _ _ rfl rfl rfl rfl rfl
  constructor
  · intro hsingular
    exact exec_curveLoad_of_error (curveCheck_of_singular _ _ _ hsingular)
  · intro hp hdisc hG
    refine exec_curveLoad_of_error (e := .pointNotOnCurve) ?_
    rw [curveCheck_of_nonsingular _ _ _ hp hdisc, if_neg (mt (onCurve_aff_iff_liesOn _ _ _).1 hG)]

end Sys2Proof.Machine

/-! # Proofs of the family 42_point_double: the operand checks, PDBL, and the range of point results -/

namespace Sys2Proof.Laws

open Sys2Proof.Machine Sys2Proof.Machine.Claim

/-! ## The operand checks (R86, R106) -/

/-- One operand that is not a curve point is enough, wherever it stands: CheckPoint has only the one error. -/
theorem checkPoints_eq_error {c : FieldCurve} {pts : List Point} {pt : Point} (hmem : pt ∈ pts) (h : ¬Passes c pt) :
    checkPoints c pts = .error .pointNotOnCurve := by
  induction pts with
  | nil => cases hmem
  | cons q pts ih =>
    unfold checkPoints checkPoint
    by_cases hq : onCurve c q = true
    · have hne : pt ≠ q := by
        rintro rfl
        exact h ((onCurve_iff_passes c pt).1 hq)
      simpa only [if_pos hq] using ih ((List.mem_cons.1 hmem).resolve_left hne)
    · simp only [if_neg hq]

/-- An operand that fails its check ends the command before what follows the checks. -/
theorem onLoadedCurve_of_failed {q : Snapshot} {pts : List Point} {pt : Point} (rest : Except ErrorKind Writes)
    (hv : q.curveValid = true) (hmem : pt ∈ pts) (h : ¬Passes q.curve pt) :
    onLoadedCurve q pts rest = .error .pointNotOnCurve := by
  simp [onLoadedCurve, hv, checkPoints_eq_error hmem h]

/-! ## The inverse, given one (R73, R74) -/

/-- Any inverse `u` of `d` is, reduced, the one that the point operation computes. -/
theorem modInvInternal_of_inverse {p u : Nat} {d : Int} (hp : 2 ≤ p) (hu : d * u ≡ 1 [ZMOD p]) :
    modInvInternal p d = .ok (u % p) := by
  have hz : zmod d p * u ≡ 1 [MOD p] := by
    rw [← Int.natCast_modEq_iff]
    push_cast
    rw [zmod_cast d (by omega)]
    exact ((Int.mod_modEq d p).mul_right _).trans hu
  obtain ⟨v, hv⟩ := modInv_of_coprime hp (Nat.coprime_of_mul_modEq_one u hz)
  obtain ⟨-, hlt, hinv⟩ := modInv_eq_ok hv
  have hred : d * (u % p : Nat) ≡ 1 [ZMOD p] := by
    push_cast
    exact ((Int.mod_modEq _ _).mul_left d).trans hu
  rw [inverse_unique hinv hred hlt (Nat.mod_lt _ (by omega))]
  exact modInvInternal_eq_ok.2 hv

/-! ## The branches of PointDouble (R84) -/

/-- The last two lines of R84 and of R89 in plain arithmetic. -/
theorem chord_isChordPoint {p : Nat} (m x1 y1 x2 : Nat) (hp : 0 < p) :
    ∃ x3 y3, chord p m x1 y1 x2 = .aff x3 y3 ∧ IsChordPoint p m x1 y1 x2 x3 y3 := by
  refine ⟨_, _, rfl, zmod_lt _ hp, zmod_lt _ hp, ?_, ?_⟩ <;> rw [← ZMod.natCast_eq_natCast_iff']
  · push_cast [residue_zmod _ hp]
    ring
  · push_cast [residue_zmod _ hp]
    ring

theorem pointDouble_zero_y (c : FieldCurve) (x : Nat) : pointDouble c (.aff x 0) = .ok .inf := by
  simp [pointDouble, zmod]

/-- The tangent's slope may be computed with any inverse `u` of `2 * y`. -/
theorem pointDouble_eq_chord {c : FieldCurve} {x y u : Nat} (hlt : y < c.p) (hy : y ≠ 0)
    (hu : 2 * y * u % c.p = 1) :
    pointDouble c (.aff x y) = .ok (chord c.p ((3 * x ^ 2 + c.a) * u % c.p) x y x) := by
  have hp : 2 ≤ c.p := by omega
  have hy' : zmod y c.p ≠ 0 := by rwa [zmod_natCast, Nat.mod_eq_of_lt hlt]
  have hinv : modInvInternal c.p (2 * (y : Int)) = .ok (u % c.p) :=
    modInvInternal_of_inverse hp ((modEq_one_iff hp _).2 (by exact_mod_cast hu))
  have hslope : zmod ((3 * (x : Int) ^ 2 + c.a) * (u % c.p : Nat)) c.p = (3 * x ^ 2 + c.a) * u % c.p := by
    rw [← Nat.mul_mod_mod, ← zmod_natCast ((3 * x ^ 2 + c.a) * (u % c.p))]
    push_cast
    rfl
  simp only [pointDouble, if_neg hy', hinv, hslope]

/-- Settles O50: a result of each operation is the chord point reduced, an operand, or INF. -/
theorem pointResultsAreReduced : Obligations.PointResultsAreReduced := fun _ _ _ _ _ =>
  ⟨pointDouble_reduced, pointAdd_reduced, fun _ => ladder_reduced,
    fun h => reduced_of_onCurve ((onCurve_iff_passes _ _).2 h)⟩

end Sys2Proof.Laws

namespace Sys2Proof.Machine

open Sys2Proof.Laws Sys2Proof.Machine.Claim

/-! ## A point command that fails its checks, and PDBL (R85, R86) -/

/-- Settles O41: A is in the operand list of every point command, and B in that of PADD. -/
theorem offCurveOperandsAreRejected : Obligations.OffCurveOperandsAreRejected := by
  intro s i hi hv hbad
  refine exec_of_error (e := .pointNotOnCurve) ?_
  rcases hbad with hA | ⟨rfl, hB⟩
  · rcases hi with rfl | rfl | rfl <;> exact onLoadedCurve_of_failed _ hv List.mem_cons_self hA
  · exact onLoadedCurve_of_failed _ hv (List.mem_cons_of_mem _ List.mem_cons_self) hB

/-- A command whose outcome is a point writes it as R22 says. -/
theorem exec_of_point {i : Instr} {s : State} {pt : Point}
    (h : commandOutcome s.params s.latch.snapshot i = .ok (.point pt)) : exec i s = .next (endsWithPoint s pt) := by
  rw [exec_eq_complete, h, complete_point]
  cases pt <;> rfl

/-- PDBL of an operand that passes its check writes the point that PointDouble answers. -/
theorem exec_pdbl_of_pointDouble {s : State} {pt r : Point} (hv : s.latch.snapshot.curveValid = true)
    (hA : s.latch.snapshot.ops.ptA = pt) (hpt : Passes s.latch.snapshot.curve pt)
    (h : pointDouble s.latch.snapshot.curve pt = .ok r) : exec .pdbl s = .next (endsWithPoint s r) := by
  have hon : onCurve s.latch.snapshot.curve pt = true := (onCurve_iff_passes _ _).2 hpt
  refine exec_of_point ?_
  rw [commandOutcome, evalPdbl, hA, onLoadedCurve_of_passed _ hv (by simpa using hon), h, pointWrites]

/-- Settles O42: INF and a curve point with y = 0 pass the check, and PointDouble answers INF for both. -/
theorem pdblOfInfinityOrVerticalTangent : Obligations.PdblOfInfinityOrVerticalTangent := by
  rintro s hv (hA | ⟨x, hA, hon⟩)
  · exact exec_pdbl_of_pointDouble hv hA trivial rfl
  · exact exec_pdbl_of_pointDouble hv hA hon (pointDouble_zero_y _ x)

/-- Settles O43: PointDouble's inverse is `u` reduced, and its chord point is the tangent's. -/
theorem pdblTangentConstruction : Obligations.PdblTangentConstruction := by
  rintro s c x y u rfl hv hA hon hy hu
  have ⟨_, hlt, _⟩ := hon
  obtain ⟨x', y', hchord, hpoint⟩ := chord_isChordPoint
    ((3 * x ^ 2 + s.latch.snapshot.curve.a) * u % s.latch.snapshot.curve.p) x y x (Nat.zero_lt_of_lt hlt)
  refine ⟨x', y', hpoint, exec_pdbl_of_pointDouble hv hA hon ?_⟩
  rw [pointDouble_eq_chord hlt hy hu, hchord]

end Sys2Proof.Machine

/-! # Proofs of the family 43_point_add: PointAdd and PADD -/

namespace Sys2Proof.Laws

open Sys2Proof.Machine Sys2Proof.Machine.Claim

/-! ## Residues, inverses and chord points -/

/-- The statements write `a - b` modulo `p` as a sum of natural numbers. -/
theorem residue_add_sub {p b : Nat} (a : Nat) (h : b ≤ p) : ((a + (p - b) : Nat) : ZMod p) = a - b := by
  rw [Nat.cast_add, Nat.cast_sub h, ZMod.natCast_self, zero_sub, sub_eq_add_neg]

theorem zmod_eq_of_residue_eq {p : Nat} {a b : Int} (h : (a : ZMod p) = b) : zmod a p = zmod b p :=
  congrArg Int.toNat ((ZMod.intCast_eq_intCast_iff a b p).1 h)

/-- The inverse of a point operation is the one in the ring of residues, whenever the ring has one. -/
theorem modInvInternal_of_residue {p : Nat} {d : Int} {v : ZMod p} (hp : 2 ≤ p) (hv : d * v = 1) :
    ∃ u, modInvInternal p d = .ok u ∧ (u : ZMod p) = v := by
  have : NeZero p := ⟨by omega⟩
  have hu : d * v.val ≡ 1 [ZMOD p] := by
    rw [← ZMod.intCast_eq_intCast_iff]
    push_cast
    rwa [ZMod.natCast_zmod_val]
  exact ⟨_, modInvInternal_of_inverse hp hu, by rw [ZMod.natCast_mod, ZMod.natCast_zmod_val]⟩

/-- A chord point depends on its line (its slope and its value at 0, up to sign) and on the sum of the two x
coordinates, all modulo `p`. -/
theorem chord_eq_chord {p m m' x1 y1 x2 x1' y1' x2' : Nat} (hp : 0 < p) (hm : (m : ZMod p) = m')
    (hx : (x1 + x2 : ZMod p) = x1' + x2') (hy : (m * x1 - y1 : ZMod p) = m * x1' - y1') :
    chord p m x1 y1 x2 = chord p m' x1' y1' x2' := by
  have hthird : zmod ((m : Int) ^ 2 - x1 - x2) p = zmod ((m' : Int) ^ 2 - x1' - x2') p := by
    refine zmod_eq_of_residue_eq ?_
    push_cast
    linear_combination (m + m' : ZMod p) * hm - hx
  rw [chord, chord, hthird]
  refine congrArg _ (zmod_eq_of_residue_eq ?_)
  push_cast
  rw [residue_zmod _ hp]
  push_cast
  linear_combination hy + (x1' - (m' ^ 2 - x1' - x2') : ZMod p) * hm

/-! ## The branches of PointAdd (R89, R91) -/

theorem pointAdd_inf_left (c : FieldCurve) (pt : Point) : pointAdd c .inf pt = .ok pt := rfl

theorem pointAdd_inf_right (c : FieldCurve) (pt : Point) : pointAdd c pt .inf = .ok pt := by
  cases pt <;> rfl

theorem pointAdd_self (c : FieldCurve) (pt : Point) : pointAdd c pt pt = pointDouble c pt := by
  cases pt with
  | inf => rfl
  | aff x y => exact if_pos ⟨rfl, rfl⟩

theorem pointAdd_vertical (c : FieldCurve) (x : Nat) {y1 y2 : Nat} (h : y1 ≠ y2) :
    pointAdd c (.aff x y1) (.aff x y2) = .ok .inf := by
  rw [pointAdd, if_neg (fun heq => h heq.2), if_pos rfl]

/-- The secant may be computed with any slope `m` that is `(y2 - y1) * u` modulo P, `u` being the inverse of
`x2 - x1`. -/
theorem pointAdd_eq_chord {c : FieldCurve} {x1 y1 x2 y2 m : Nat} {u : ZMod c.p} (hp : 2 ≤ c.p) (hx : x1 ≠ x2)
    (hu : (x2 - x1 : ZMod c.p) * u = 1) (hm : (m : ZMod c.p) = (y2 - y1) * u) :
    pointAdd c (.aff x1 y1) (.aff x2 y2) = .ok (chord c.p m x1 y1 x2) := by
  obtain ⟨v, hv, rfl⟩ := modInvInternal_of_residue (d := (x2 : Int) - x1) hp (by exact_mod_cast hu)
  have hslope : (zmod (((y2 : Int) - y1) * v) c.p : ZMod c.p) = m := by
    rw [residue_zmod _ (by omega), hm]
    push_cast
    rfl
  simp only [pointAdd, if_neg (fun heq : x1 = x2 ∧ y1 = y2 => hx heq.1), if_neg hx, hv]
  rw [chord_eq_chord (by omega) hslope rfl rfl]

/-- The secant construction in plain arithmetic, from any inverse `u` of `x2 - x1` modulo P. -/
theorem pointAdd_secant {c : FieldCurve} {x1 y1 x2 y2 u : Nat} (h1 : LiesOn c x1 y1) (h2 : LiesOn c x2 y2)
    (hx : x1 ≠ x2) (hu : (x2 + (c.p - x1)) * u % c.p = 1) :
    ∃ x3 y3, IsChordPoint c.p ((y2 + (c.p - y1)) * u % c.p) x1 y1 x2 x3 y3 ∧
      pointAdd c (.aff x1 y1) (.aff x2 y2) = .ok (.aff x3 y3) := by
  obtain ⟨hx1, hy1, -⟩ := h1
  obtain ⟨hx2, -, -⟩ := h2
  have hinv : (x2 - x1 : ZMod c.p) * u = 1 := by
    rw [← residue_add_sub x2 hx1.le, ← Nat.cast_mul, ← ZMod.natCast_mod, hu, Nat.cast_one]
  have hslope : (((y2 + (c.p - y1)) * u % c.p : Nat) : ZMod c.p) = (y2 - y1) * u := by
    rw [ZMod.natCast_mod, Nat.cast_mul, residue_add_sub y2 hy1.le]
  obtain ⟨x3, y3, hchord, hpoint⟩ :=
    chord_isChordPoint ((y2 + (c.p - y1)) * u % c.p) x1 y1 x2 (Nat.zero_lt_of_lt hx1)
  exact ⟨x3, y3, hpoint, by rw [pointAdd_eq_chord (by omega) hx hinv hslope, hchord]⟩

/-! ## PointAdd is commutative (R92) -/

/-- Both orders draw the same line: the slope's two factors change sign together, and `y - m * x` is the same at both
points. -/
theorem pointAdd_comm_of_inverse {c : FieldCurve} {x1 y1 x2 y2 : Nat} {u : ZMod c.p} (hp : 2 ≤ c.p) (hx : x1 ≠ x2)
    (hu : (x2 - x1 : ZMod c.p) * u = 1) :
    pointAdd c (.aff x1 y1) (.aff x2 y2) = pointAdd c (.aff x2 y2) (.aff x1 y1) := by
  have : NeZero c.p := ⟨by omega⟩
  obtain ⟨m, hm⟩ : ∃ m : Nat, (m : ZMod c.p) = (y2 - y1) * u := ⟨_, ZMod.natCast_zmod_val _⟩
  have hu' : (x1 - x2 : ZMod c.p) * -u = 1 := by linear_combination hu
  have hm' : (m : ZMod c.p) = (y1 - y2) * -u := by linear_combination hm
  have hline : (m * x1 - y1 : ZMod c.p) = m * x2 - y2 := by
    linear_combination (x1 - x2 : ZMod c.p) * hm + (y1 - y2 : ZMod c.p) * hu
  rw [pointAdd_eq_chord hp hx hu hm, pointAdd_eq_chord hp hx.symm hu' hm',
    chord_eq_chord (by omega) rfl (add_comm _ _) hline]

theorem coprime_difference_iff {p x1 : Nat} (x2 : Nat) (h : x1 < p) :
    Nat.gcd (x2 + (p - x1)) p = 1 ↔ IsUnit (x2 - x1 : ZMod p) := by
  rw [← residue_add_sub x2 h.le, ZMod.isUnit_iff_coprime]

/-- Settles O49: the rules for INF, equal points and opposite points are symmetric; the secants of the two orders are
one line where `x2 - x1` has an inverse, and where it has none, neither has `x1 - x2`. -/
theorem pointAdditionCommutes : Obligations.PointAdditionCommutes := by
  intro c p1 p2 h1 h2
  rcases p1 with _ | ⟨x1, y1⟩
  · rw [pointAdd_inf_left, pointAdd_inf_right]
  rcases p2 with _ | ⟨x2, y2⟩
  · rw [pointAdd_inf_left, pointAdd_inf_right]
  obtain ⟨hx1, -, -⟩ : LiesOn c x1 y1 := h1
  obtain ⟨hx2, -, -⟩ : LiesOn c x2 y2 := h2
  by_cases hx : x1 = x2
  · subst hx
    by_cases hy : y1 = y2
    · rw [hy]
    · rw [pointAdd_vertical c x1 hy, pointAdd_vertical c x1 (Ne.symm hy)]
  by_cases hunit : IsUnit (x2 - x1 : ZMod c.p)
  · obtain ⟨u, hu⟩ := hunit.exists_right_inv
    exact pointAdd_comm_of_inverse (by omega) hx hu
  · have hunit' : ¬IsUnit (x1 - x2 : ZMod c.p) := by rwa [← neg_sub, IsUnit.neg_iff]
    rw [pointAdd_eq_error hx1 hx (mt (coprime_difference_iff x2 hx1).1 hunit),
      pointAdd_eq_error hx2 (Ne.symm hx) (mt (coprime_difference_iff x1 hx2).1 hunit')]

end Sys2Proof.Laws

namespace Sys2Proof.Machine

open Sys2Proof.Laws Sys2Proof.Machine.Claim

/-! ## PADD (R90) -/

/-- PADD of operands that pass their checks writes the point that PointAdd answers. -/
theorem exec_padd_of_pointAdd {s : State} {p1 p2 r : Point} (hv : s.latch.snapshot.curveValid = true)
    (hA : s.latch.snapshot.ops.ptA = p1) (hB : s.latch.snapshot.ops.ptB = p2)
    (h1 : Passes s.latch.snapshot.curve p1) (h2 : Passes s.latch.snapshot.curve p2)
    (h : pointAdd s.latch.snapshot.curve p1 p2 = .ok r) : exec .padd s = .next (endsWithPoint s r) := by
  have hon : ∀ pt ∈ [p1, p2], onCurve s.latch.snapshot.curve pt = true := by
    simpa [onCurve_iff_passes] using ⟨h1, h2⟩
  refine exec_of_point ?_
  rw [commandOutcome, evalPadd, hA, hB, onLoadedCurve_of_passed _ hv hon, h, pointWrites]

/-- Settles O44: INF passes every check, and PointAdd answers the other operand. -/
theorem paddIdentityLaws : Obligations.PaddIdentityLaws := by
  rintro s _ pt rfl hv hpt (⟨hA, hB⟩ | ⟨hA, hB⟩)
  · exact exec_padd_of_pointAdd hv hA hB trivial hpt (pointAdd_inf_left _ pt)
  · exact exec_padd_of_pointAdd hv hA hB hpt trivial (pointAdd_inf_right _ pt)

/-- The check of an operand that has just been checked adds nothing. -/
theorem checkPoints_pair_self (c : FieldCurve) (pt : Point) : checkPoints c [pt, pt] = checkPoints c [pt] := by
  cases h : onCurve c pt <;> simp [checkPoints, checkPoint, h]

/-- Settles O45: the checks of A and of B are one check, and PointAdd of equal points is PointDouble. -/
theorem paddOfEqualPointsDoubles : Obligations.PaddOfEqualPointsDoubles := by
  intro s h
  have hout : evalPadd s.latch.snapshot = evalPdbl s.latch.snapshot := by
    rw [evalPadd, evalPdbl, ← h, pointAdd_self, onLoadedCurve, onLoadedCurve, checkPoints_pair_self]
  rw [exec_eq_complete, exec_eq_complete, commandOutcome, commandOutcome, hout]

/-- Settles O46: with equal x and different y PointAdd answers INF before it needs an inverse. -/
theorem paddOfInversePointsIsInfinity : Obligations.PaddOfInversePointsIsInfinity := by
  rintro s _ x y1 y2 rfl hv hA hB h1 h2 hy
  exact exec_padd_of_pointAdd hv hA hB h1 h2 (pointAdd_vertical _ x hy)

/-- Settles O47: the operands pass their checks, and PointAdd answers the secant's third point. -/
theorem paddSecantConstruction : Obligations.PaddSecantConstruction := by
  rintro s _ x1 y1 x2 y2 u rfl hv hA hB h1 h2 hx hu
  obtain ⟨x3, y3, hpoint, hadd⟩ := pointAdd_secant h1 h2 hx hu
  exact ⟨x3, y3, hpoint, exec_padd_of_pointAdd hv hA hB h1 h2 hadd⟩

end Sys2Proof.Machine

/-! # Proofs of the family 44_scalar_mul: the ladder and PMUL -/

namespace Sys2Proof.Laws

open Sys2Proof.Machine Sys2Proof.Machine.Claim

/-! ## The ladder's schedule, digit by digit (R94, R96) -/

/-- R9's `bitlen` is Mathlib's `Nat.size`: both exceed `m` just when `2 ^ m ≤ k`. -/
theorem bitlen_eq_size (k : Nat) : bitlen k = Nat.size k := by
  unfold bitlen
  split
  · rename_i hk
    rw [hk, Nat.size_zero]
  · rename_i hk
    refine eq_of_forall_lt_iff fun m => ?_
    rw [Nat.lt_size, Nat.lt_succ_iff, Nat.le_log2 hk]

/-- The group operations of one binary digit below the leading 1. -/
def digitOps (b : Bool) : List GroupOp := if b then [.double, .addPoint] else [.double]

theorem ladderOps_succ (k i : Nat) : ladderOps k (i + 1) = digitOps (k.testBit i) ++ ladderOps k i := by
  rw [ladderOps, digitOps]
  split <;> rfl

/-- A digit appended to `k` is the last one that the loop performs. -/
theorem ladderOps_bit (b : Bool) (k i : Nat) :
    ladderOps (Nat.bit b k) (i + 1) = ladderOps k i ++ digitOps b := by
  induction i with
  | zero => rw [ladderOps_succ, Nat.testBit_bit_zero, ladderOps, ladderOps, List.append_nil, List.nil_append]
  | succ i ih => rw [ladderOps_succ, Nat.testBit_bit_succ, ih, ladderOps_succ, List.append_assoc]

/-- The operations of the whole ladder on `k`: those of the digits below the leading 1. -/
def ladderSchedule (k : Nat) : List GroupOp := ladderOps k (bitlen k - 1)

theorem ladderSchedule_zero : ladderSchedule 0 = [] := rfl

theorem ladderSchedule_one : ladderSchedule 1 = [] := by
  rw [ladderSchedule, bitlen_eq_size, Nat.size_one, ladderOps]

theorem ladderSchedule_bit (b : Bool) {k : Nat} (hk : k ≠ 0) :
    ladderSchedule (Nat.bit b k) = ladderSchedule k ++ digitOps b := by
  have hsize : Nat.size (Nat.bit b k) - 1 = (Nat.size k - 1) + 1 := by
    have hpos := Nat.size_pos.2 (Nat.pos_of_ne_zero hk)
    rw [Nat.size_bit (Nat.bit_ne_zero b hk)]
    omega
  rw [ladderSchedule, bitlen_eq_size, hsize, ladderOps_bit, ladderSchedule, bitlen_eq_size]

theorem ladder_zero (c : FieldCurve) (pt : Point) : ladder c pt 0 = .ok .inf := rfl

theorem ladder_eq_runOps (c : FieldCurve) (pt : Point) {k : Nat} (hk : k ≠ 0) :
    ladder c pt k = runOps c pt (ladderSchedule k) pt := if_neg hk

theorem ladder_one (c : FieldCurve) (pt : Point) : ladder c pt 1 = .ok pt := by
  rw [ladder_eq_runOps c pt one_ne_zero, ladderSchedule_one, runOps]

theorem runOps_cons (c : FieldCurve) (pt acc : Point) (op : GroupOp) (ops : List GroupOp) :
    runOps c pt (op :: ops) acc = (op.apply c pt acc).bind (runOps c pt ops) := by
  rw [runOps]
  cases op.apply c pt acc <;> rfl

/-- A schedule in two parts: the second starts where the first ends, and is not reached if the first raises. -/
theorem runOps_append (c : FieldCurve) (pt acc : Point) (ops ops' : List GroupOp) :
    runOps c pt (ops ++ ops') acc = (runOps c pt ops acc).bind (runOps c pt ops') := by
  induction ops generalizing acc with
  | nil => rfl
  | cons op ops ih =>
    rw [List.cons_append, runOps_cons, runOps_cons]
    cases op.apply c pt acc with
    | error e => rfl
    | ok acc' => exact ih acc'

/-- Double-and-add: the ladder on `k` with a digit appended. -/
theorem ladder_bit (c : FieldCurve) (pt : Point) (b : Bool) {k : Nat} (hk : k ≠ 0) :
    ladder c pt (Nat.bit b k) = (ladder c pt k).bind (runOps c pt (digitOps b)) := by
  rw [ladder_eq_runOps c pt (Nat.bit_ne_zero b hk), ladderSchedule_bit b hk, runOps_append,
    ladder_eq_runOps c pt hk]

theorem runOps_singleton (c : FieldCurve) (pt acc : Point) (op : GroupOp) :
    runOps c pt [op] acc = op.apply c pt acc := by
  rw [runOps_cons]
  cases op.apply c pt acc <;> rfl

theorem runOps_digitOps_false (c : FieldCurve) (pt acc : Point) :
    runOps c pt (digitOps false) acc = pointDouble c acc :=
  runOps_singleton c pt acc .double

theorem runOps_digitOps_true (c : FieldCurve) (pt acc : Point) :
    runOps c pt (digitOps true) acc = (pointDouble c acc).bind fun acc => pointAdd c acc pt :=
  (runOps_cons c pt acc .double [.addPoint]).trans
    (congrArg _ (funext fun acc => runOps_singleton c pt acc .addPoint))

/-- Settles O55: the ladder on `k` with the digit 0, and with the digit 1, appended. -/
theorem ladderFollowsTheBinaryDigits : Obligations.LadderFollowsTheBinaryDigits := by
  intro c pt k
  refine ⟨ladder_zero c pt, ladder_one c pt, fun hk => ?_, fun hk => ?_⟩
  · rw [← Nat.bit_false_apply, ladder_bit c pt false (Nat.one_le_iff_ne_zero.1 hk)]
    exact congrArg _ (funext (runOps_digitOps_false c pt))
  · rw [← Nat.bit_true_apply, ladder_bit c pt true (Nat.one_le_iff_ne_zero.1 hk)]
    cases ladder c pt k with
    | error e => rfl
    | ok acc => exact runOps_digitOps_true c pt acc

/-- Every digit below the leading 1 costs a doubling, and every digit 1 among them an addition. -/
theorem count_ladderSchedule {k : Nat} (hk : k ≠ 0) :
    (ladderSchedule k).count .double + 1 = Nat.size k ∧
      (ladderSchedule k).count .addPoint + 1 = k.bits.count true := by
  induction k using Nat.binaryRecFromOne with
  | zero => exact absurd rfl hk
  | one => rw [ladderSchedule_one, Nat.size_one, Nat.one_bits]; decide
  | bit b k hne ih =>
    obtain ⟨hdouble, hadd⟩ := ih hne
    rw [ladderSchedule_bit b hne, Nat.size_bit (Nat.bit_ne_zero b hne), List.count_append, List.count_append,
      Nat.bits_append_bit k b (fun h => absurd h hne), ← hdouble, List.count_cons, ← hadd]
    cases b <;> simp [digitOps]

/-- Settles O56: the schedule is `ladderSchedule k`, and its counts follow the digits. -/
theorem ladderStepCounts : Obligations.LadderStepCounts := by
  intro k
  refine ⟨fun c pt => ⟨fun hk => ladder_eq_runOps c pt (Nat.one_le_iff_ne_zero.1 hk), ?_⟩, fun hk => ?_, fun hk => ?_⟩
  · rintro rfl
    exact ladder_zero c pt
  · obtain ⟨hdouble, hadd⟩ := count_ladderSchedule (Nat.one_le_iff_ne_zero.1 hk)
    exact ⟨Nat.eq_sub_of_add_eq hdouble, Nat.eq_sub_of_add_eq hadd⟩
  · obtain rfl | rfl := Nat.le_one_iff_eq_zero_or_eq_one.1 hk
    · exact ladderSchedule_zero
    · exact ladderSchedule_one

/-! ## The ladder's one error (R74, R97) -/

theorem modInvInternal_error {p : Nat} {d : Int} {e : ErrorKind} (h : modInvInternal p d = .error e) :
    e = .invariantViolation := by
  unfold modInvInternal at h
  split at h <;> cases h
  rfl

theorem pointDouble_error {c : FieldCurve} {pt : Point} {e : ErrorKind} (h : pointDouble c pt = .error e) :
    e = .invariantViolation := by
  cases pt with
  | inf => cases h
  | aff x y =>
    rw [pointDouble] at h
    split at h
    · cases h
    · split at h <;> cases h
      exact modInvInternal_error ‹_›

theorem pointAdd_error {c : FieldCurve} {p1 p2 : Point} {e : ErrorKind} (h : pointAdd c p1 p2 = .error e) :
    e = .invariantViolation := by
  unfold pointAdd at h
  split at h
  · cases h
  · cases h
  · split at h
    · exact pointDouble_error h
    split at h
    · cases h
    · split at h <;> cases h
      exact modInvInternal_error ‹_›

theorem runOps_error {c : FieldCurve} {pt acc : Point} {ops : List GroupOp} {e : ErrorKind}
    (h : runOps c pt ops acc = .error e) : e = .invariantViolation := by
  induction ops generalizing acc with
  | nil => cases h
  | cons op ops ih =>
    rw [runOps] at h
    split at h
    · cases h
      cases op with
      | double => exact pointDouble_error ‹_›
      | addPoint => exact pointAdd_error ‹_›
    · exact ih h

theorem ladder_error {c : FieldCurve} {pt : Point} {k : Nat} {e : ErrorKind} (h : ladder c pt k = .error e) :
    e = .invariantViolation := by
  unfold ladder at h
  split at h
  · cases h
  · exact runOps_error h

/-! ## A scalar that PMUL accepts (R23) -/

/-- A number whose top bit of `n` is clear is itself as a two's complement number. -/
theorem sext_of_lt {n v : Nat} (h : v < 2 ^ (n - 1)) : sext n v = v := by
  rw [sext, Nat.testBit_lt_two_pow h, if_neg Bool.false_ne_true]

end Sys2Proof.Laws

namespace Sys2Proof.Machine

open Sys2Proof.Laws Sys2Proof.Machine.Claim

/-! ## PMUL (R95) -/

/-- PMUL of a checked point and a non-negative scalar has the ladder's outcome. -/
theorem commandOutcome_pmul {s : State} (hv : s.latch.snapshot.curveValid = true)
    (hpt : Passes s.latch.snapshot.curve s.latch.snapshot.ops.ptA)
    (hk : s.latch.snapshot.ops.k < 2 ^ (s.params.kw - 1)) :
    commandOutcome s.params s.latch.snapshot .pmul =
      pointWrites (ladder s.latch.snapshot.curve s.latch.snapshot.ops.ptA s.latch.snapshot.ops.k) := by
  have hon : onCurve s.latch.snapshot.curve s.latch.snapshot.ops.ptA = true := (onCurve_iff_passes _ _).2 hpt
  rw [commandOutcome, evalPmul, onLoadedCurve_of_passed _ hv (by simpa using hon), Operands.scalar, sext_of_lt hk,
    if_neg (Int.natCast_nonneg _).not_gt, Int.toNat_natCast]

theorem exec_pmul_of_ladder {s : State} {pt : Point} (hv : s.latch.snapshot.curveValid = true)
    (hpt : Passes s.latch.snapshot.curve s.latch.snapshot.ops.ptA)
    (hk : s.latch.snapshot.ops.k < 2 ^ (s.params.kw - 1))
    (h : ladder s.latch.snapshot.curve s.latch.snapshot.ops.ptA s.latch.snapshot.ops.k = .ok pt) :
    exec .pmul s = .next (endsWithPoint s pt) :=
  exec_of_point (by rw [commandOutcome_pmul hv hpt hk, h, pointWrites])

/-- Settles O54: PMUL passes on the ladder's point, or the ladder's one error. -/
theorem pmulCompletesWithTheLadder : Obligations.PmulCompletesWithTheLadder := by
  intro s hv hpt _ hk
  cases h : ladder s.latch.snapshot.curve s.latch.snapshot.ops.ptA s.latch.snapshot.ops.k with
  | ok pt => exact .inl ⟨pt, rfl, exec_pmul_of_ladder hv hpt hk h⟩
  | error e =>
    obtain rfl := ladder_error h
    have hout : commandOutcome s.params s.latch.snapshot .pmul = .error .invariantViolation := by
      rw [commandOutcome_pmul hv hpt hk, h, pointWrites]
    exact .inr ⟨rfl, exec_of_error hout⟩

/-- Settles O53: 0 and 1 are scalars that PMUL accepts, since KW is at least 2, and the ladder on them makes no step. -/
theorem pmulByZeroAndOne : Obligations.PmulByZeroAndOne := by
  intro s hv hpt hp
  have hkw : 2 ≤ s.params.kw := (OpReg.width_le hp .k).1
  have hone : 1 < 2 ^ (s.params.kw - 1) := Nat.one_lt_two_pow (by omega)
  constructor
  · intro hk
    exact exec_pmul_of_ladder hv hpt (by omega) (by rw [hk, ladder_zero])
  · intro hk
    exact exec_pmul_of_ladder hv hpt (by omega) (by rw [hk, ladder_one])

end Sys2Proof.Machine

namespace Sys2Proof.Laws

open Sys2Proof.Machine Sys2Proof.Machine.Claim WeierstrassCurve

/-! ## Doubling as residues (R84) -/

theorem two_residue_ne_zero {p : Nat} (h3 : 3 ≤ p) : (2 : ZMod p) ≠ 0 := by
  intro h
  have hdvd : p ∣ 2 := (ZMod.natCast_eq_zero_iff 2 p).1 (by exact_mod_cast h)
  exact absurd (Nat.le_of_dvd two_pos hdvd) (by omega)

/-- The tangent may be computed with any slope `m` that is `(3 * x ^ 2 + a) * u` modulo P, `u` being the inverse of
`2 * y`. -/
theorem pointDouble_eq_chord_of_residue {c : FieldCurve} {x y m : Nat} {u : ZMod c.p} (hlt : y < c.p) (hy : y ≠ 0)
    (hu : (2 * y : ZMod c.p) * u = 1) (hm : (m : ZMod c.p) = (3 * x ^ 2 + c.a) * u) :
    pointDouble c (.aff x y) = .ok (chord c.p m x y x) := by
  have : NeZero c.p := ⟨by omega⟩
  have hinv : 2 * y * u.val % c.p = 1 := by
    rw [← Nat.mod_eq_of_lt (by omega : 1 < c.p), ← ZMod.natCast_eq_natCast_iff']
    push_cast
    rwa [ZMod.natCast_zmod_val]
  have hslope : (((3 * x ^ 2 + c.a) * u.val % c.p : Nat) : ZMod c.p) = m := by
    rw [ZMod.natCast_mod, hm]
    push_cast
    rw [ZMod.natCast_zmod_val]
  rw [pointDouble_eq_chord hlt hy hinv, chord_eq_chord (by omega) hslope rfl rfl]

/-! ## The model's point addition is the group law of Mathlib's Weierstrass curve (R98) -/

/-- The curve `y² = x³ + a·x + b` over the residues mod P. -/
def weierstrass (c : FieldCurve) : Affine (ZMod c.p) := ⟨0, 0, 0, c.a, c.b⟩

theorem weierstrass_equation_iff (c : FieldCurve) (x y : ZMod c.p) :
    (weierstrass c).Equation x y ↔ SatisfiesCurve c x y := by
  simp [Affine.equation_iff, weierstrass, SatisfiesCurve]

theorem weierstrass_negY (c : FieldCurve) (x y : ZMod c.p) : (weierstrass c).negY x y = -y := by
  simp [Affine.negY, weierstrass]

theorem weierstrass_addX (c : FieldCurve) (x1 x2 m : ZMod c.p) :
    (weierstrass c).addX x1 x2 m = m ^ 2 - x1 - x2 := by
  simp [Affine.addX, weierstrass]

theorem weierstrass_addY (c : FieldCurve) (x1 x2 y1 m : ZMod c.p) :
    (weierstrass c).addY x1 x2 y1 m = m * (x1 - (m ^ 2 - x1 - x2)) - y1 := by
  rw [Affine.addY, weierstrass_negY, Affine.negAddY, weierstrass_addX]
  ring

/-- Mathlib's discriminant is R78's, up to the factor -16. -/
theorem weierstrass_Δ (c : FieldCurve) : (weierstrass c).Δ = -16 * (4 * c.a ^ 3 + 27 * c.b ^ 2) := by
  simp only [Δ, b₂, b₄, b₆, b₈, weierstrass]
  ring

/-- The model's point of a point of the group: coordinates as residues in `[0, P)`. -/
def ofGroup {c : FieldCurve} : (weierstrass c).Point → Point
  | .zero => .inf
  | .some x y _ => .aff x.val y.val

section
variable {c : FieldCurve} [Fact c.p.Prime]

theorem ofGroup_injective : Function.Injective (ofGroup (c := c)) := by
  intro P Q h
  rcases P with _ | ⟨x1, y1, h1⟩ <;> rcases Q with _ | ⟨x2, y2, h2⟩
  · rfl
  · cases h
  · cases h
  · obtain ⟨hx, hy⟩ := Point.aff.inj h
    obtain rfl := ZMod.val_injective _ hx
    obtain rfl := ZMod.val_injective _ hy
    rfl

theorem weierstrass_Δ_ne_zero (h3 : 3 ≤ c.p) (hd : discriminant c ≠ 0) : (weierstrass c).Δ ≠ 0 := by
  have hdisc : (4 * c.a ^ 3 + 27 * c.b ^ 2 : ZMod c.p) ≠ 0 := by
    intro h
    refine hd ((zmod_eq_zero_iff _ (by omega)).2 ?_)
    push_cast
    exact h
  have h16 : (-16 : ZMod c.p) ≠ 0 := by
    rw [show (-16 : ZMod c.p) = -2 ^ 4 by norm_num]
    exact neg_ne_zero.2 (pow_ne_zero 4 (two_residue_ne_zero h3))
  rw [weierstrass_Δ]
  exact mul_ne_zero h16 hdisc

/-- On a non-singular curve every point that passes the check is a point of the group. -/
theorem exists_ofGroup_eq (h3 : 3 ≤ c.p) (hd : discriminant c ≠ 0) {pt : Point} (hpt : Passes c pt) :
    ∃ P, ofGroup (c := c) P = pt := by
  cases pt with
  | inf => exact ⟨.zero, rfl⟩
  | aff x y =>
    obtain ⟨hx, hy, hon⟩ := (liesOn_iff_satisfiesCurve c x y).1 hpt
    have hns : (weierstrass c).Nonsingular x y :=
      (Affine.equation_iff_nonsingular_of_Δ_ne_zero (weierstrass_Δ_ne_zero h3 hd)).1
        ((weierstrass_equation_iff c x y).2 hon)
    exact ⟨.some x y hns, by rw [ofGroup, ZMod.val_natCast_of_lt hx, ZMod.val_natCast_of_lt hy]⟩

theorem zmod_eq_val (a : Int) : zmod a c.p = (a : ZMod c.p).val := by
  rw [zmod, ← ZMod.val_intCast, Int.toNat_natCast]

/-- The model's chord point has the coordinates of Mathlib's sum, for a line of the same slope. -/
theorem chord_val (x1 y1 x2 l : ZMod c.p) :
    chord c.p l.val x1.val y1.val x2.val =
      .aff ((weierstrass c).addX x1 x2 l).val ((weierstrass c).addY x1 x2 y1 l).val := by
  simp only [chord, zmod_eq_val, weierstrass_addX, weierstrass_addY]
  push_cast
  simp only [ZMod.natCast_zmod_val]

/-- Doubling: a point with `y = 0` is its own negative, and elsewhere Mathlib's slope is the tangent's. -/
theorem pointDouble_ofGroup (h3 : 3 ≤ c.p) (P : (weierstrass c).Point) :
    pointDouble c (ofGroup P) = .ok (ofGroup (P + P)) := by
  rcases P with _ | ⟨x, y, h⟩
  · rfl
  by_cases hy : y = 0
  · subst hy
    have hneg : (0 : ZMod c.p) = (weierstrass c).negY x 0 := by rw [weierstrass_negY, neg_zero]
    rw [Affine.Point.add_self_of_Y_eq hneg, ofGroup, ZMod.val_zero, pointDouble_zero_y]
    rfl
  · have hden : 2 * y ≠ 0 := mul_ne_zero (two_residue_ne_zero h3) hy
    have hneg : y ≠ (weierstrass c).negY x y := by
      rwa [weierstrass_negY, ne_eq, eq_neg_iff_add_eq_zero, ← two_mul]
    have hu : (2 * y.val : ZMod c.p) * (2 * y)⁻¹ = 1 := by rw [ZMod.natCast_zmod_val, mul_inv_cancel₀ hden]
    have hm : ((weierstrass c).slope x x y y).val = (3 * (x.val : ZMod c.p) ^ 2 + c.a) * (2 * y)⁻¹ := by
      rw [ZMod.natCast_zmod_val, ZMod.natCast_zmod_val, Affine.slope_of_Y_ne rfl hneg, weierstrass_negY, sub_neg_eq_add,
        ← two_mul, div_eq_mul_inv]
      simp [weierstrass]
    rw [Affine.Point.add_self_of_Y_ne hneg, ofGroup, ofGroup,
      pointDouble_eq_chord_of_residue y.val_lt ((ZMod.val_ne_zero y).2 hy) hu hm, chord_val]

/-- Addition, in the cases of R89: INF, equal points, opposite points, and the secant. -/
theorem pointAdd_ofGroup (h3 : 3 ≤ c.p) (P Q : (weierstrass c).Point) :
    pointAdd c (ofGroup P) (ofGroup Q) = .ok (ofGroup (P + Q)) := by
  rcases P with _ | ⟨x1, y1, h1⟩
  · exact congrArg _ (congrArg ofGroup (zero_add Q).symm)
  rcases Q with _ | ⟨x2, y2, h2⟩
  · exact congrArg _ (congrArg ofGroup (add_zero (Affine.Point.some x1 y1 h1)).symm)
  by_cases hx : x1 = x2
  · subst hx
    by_cases hy : y1 = y2
    · subst hy
      rw [pointAdd_self, pointDouble_ofGroup h3]
    · have hneg : y1 = (weierstrass c).negY x1 y2 := (Affine.Y_eq_of_X_eq h1.1 h2.1 rfl).resolve_left hy
      rw [Affine.Point.add_of_Y_eq rfl hneg, ofGroup, ofGroup,
        pointAdd_vertical c _ (fun h => hy (ZMod.val_injective _ h))]
      rfl
  · have hu : ((x2.val : ZMod c.p) - x1.val) * (x2 - x1)⁻¹ = 1 := by
      rw [ZMod.natCast_zmod_val, ZMod.natCast_zmod_val, mul_inv_cancel₀ (sub_ne_zero.2 (Ne.symm hx))]
    have hm : ((weierstrass c).slope x1 x2 y1 y2).val =
        ((y2.val : ZMod c.p) - y1.val) * (x2 - x1)⁻¹ := by
      rw [ZMod.natCast_zmod_val, ZMod.natCast_zmod_val, ZMod.natCast_zmod_val, Affine.slope_of_X_ne hx,
        ← div_eq_mul_inv, ← neg_sub y2, ← neg_sub x2, neg_div_neg_eq]
    rw [Affine.Point.add_of_X_ne hx, ofGroup, ofGroup, ofGroup,
      pointAdd_eq_chord (by omega) (fun h => hx (ZMod.val_injective _ h)) hu hm,
      chord_val]

/-! ## Scalar multiplication in the group (R98, R99) -/

theorem repeatedAdd_ofGroup (h3 : 3 ≤ c.p) (P : (weierstrass c).Point) (k : Nat) :
    repeatedAdd c (ofGroup P) k = .ok (ofGroup (k • P)) := by
  induction k with
  | zero => rw [zero_nsmul]; rfl
  | succ k ih => simp only [repeatedAdd, ih, pointAdd_ofGroup h3, succ_nsmul]

/-- Each digit of the ladder doubles the multiple, or doubles it and adds one. -/
theorem ladder_ofGroup (h3 : 3 ≤ c.p) (P : (weierstrass c).Point) (k : Nat) :
    ladder c (ofGroup P) k = .ok (ofGroup (k • P)) := by
  induction k using Nat.binaryRecFromOne with
  | zero => rw [zero_nsmul]; rfl
  | one => rw [one_nsmul, ladder_one]
  | bit b k hne ih =>
    rw [ladder_bit c _ b hne, ih]
    cases b with
    | false =>
      rw [Nat.bit_false_apply, mul_nsmul', two_nsmul, ← pointDouble_ofGroup h3]
      exact runOps_digitOps_false c _ _
    | true =>
      rw [Nat.bit_true_apply, succ_nsmul, mul_nsmul', two_nsmul, ← pointAdd_ofGroup h3]
      refine (runOps_digitOps_true c _ _).trans ?_
      rw [pointDouble_ofGroup h3]
      rfl

end

/-- Settles O57: in the group both are the multiple `k • P`, and multiples add up. -/
theorem ladderIsRepeatedAddition : Obligations.LadderIsRepeatedAddition := by
  intro c pt hp h3 hd hpt
  have : Fact c.p.Prime := ⟨hp⟩
  obtain ⟨P, rfl⟩ := exists_ofGroup_eq h3 hd hpt
  refine ⟨fun k => ?_, fun j k => ⟨_, _, ladder_ofGroup h3 P j, ladder_ofGroup h3 P k, ?_⟩⟩
  · rw [ladder_ofGroup h3, repeatedAdd_ofGroup h3]
  · rw [ladder_ofGroup h3, pointAdd_ofGroup h3, add_nsmul]

/-- Settles O58: `n • P` is the group's zero, so only the multiple's remainder mod `n` counts. -/
theorem ladderIsPeriodic : Obligations.LadderIsPeriodic := by
  intro c pt n k hp h3 hd hpt _ hn
  have : Fact c.p.Prime := ⟨hp⟩
  obtain ⟨P, rfl⟩ := exists_ofGroup_eq h3 hd hpt
  rw [ladder_ofGroup h3] at hn
  have hzero : n • P = 0 := ofGroup_injective (Except.ok.inj hn)
  rw [ladder_ofGroup h3, ladder_ofGroup h3, nsmul_eq_mod_nsmul k hzero]

end Sys2Proof.Laws

/-! # Proofs of the family 60_exceptions: error completions, and point commands without a curve -/

namespace Sys2Proof.Machine

open Sys2Proof.Machine.Claim

/-! ## Error completions (R108, R109) -/

/-- Settles O28: an outcome without an error leaves ERR 0, so a completion with another ERR is an error completion. -/
theorem errorCompletionIsPrecise : Obligations.ErrorCompletionIsPrecise := by
  intro i s t h herr
  cases hout : commandOutcome s.params s.latch.snapshot i with
  | ok ws =>
    rw [exec_eq_complete, hout, complete_ok] at h
    cases h
    exact absurd rfl herr
  | error e =>
    rw [exec_of_error hout] at h
    cases h
    rfl

/-! ## Point commands without a curve (R103, R106) -/

/-- Whether a curve is loaded is the first check: without one, neither the operands nor what follows them matter. -/
theorem onLoadedCurve_of_no_curve {q : Snapshot} (pts : List Point) (rest : Except ErrorKind Writes)
    (hv : q.curveValid = false) : onLoadedCurve q pts rest = .error .noCurve := by
  simp [onLoadedCurve, hv]

/-- Settles O40: every point command begins with the check for a loaded curve. -/
theorem pointCommandsNeedACurve : Obligations.PointCommandsNeedACurve := by
  intro s i hi hv
  refine exec_of_error (e := .noCurve) ?_
  rcases hi with rfl | rfl | rfl <;> exact onLoadedCurve_of_no_curve _ _ hv

end Sys2Proof.Machine

/-! # Proofs of the family 70_reset_and_hazards: what a STATUS read sees after a command, and the quiescent block -/

namespace Sys2Proof.Machine

open Sys2Proof.Laws Sys2Proof.Machine.Claim

/-! ## STATUS after an accepted command (R126) -/

/-- Bits 0 to 31 of STATUS are the word that a read returns (R45). -/
theorem readWord_status_getLsbD (s : State) {i : Nat} (hi : i < 32) :
    (s.readWord 2 0).getLsbD i = (s.readReg .status).testBit i := by
  have hread : s.readWord 2 0 = BitVec.ofNat 32 (wordSlice (s.readReg .status) 0) := rfl
  rw [hread, ofNat_wordSlice, Nat.mul_zero, pow_zero, Nat.div_one, BitVec.getLsbD_ofNat, decide_eq_true hi,
    Bool.true_and]

/-- BUSY, DONE and ERR in the word that a STATUS read returns (R19). -/
theorem readWord_status_fields (s : State) :
    (s.readWord 2 0).getLsbD 0 = s.status.busy ∧ (s.readWord 2 0).getLsbD 1 = s.status.done ∧
    (s.readWord 2 0).extractLsb' 4 4 = s.status.err := by
  refine ⟨?busy, ?done, BitVec.eq_of_getLsbD_eq fun i hi => ?err⟩
  case busy | done =>
    rw [readWord_status_getLsbD s (by decide), statusWordBits]
    rfl
  case err =>
    have h01 : 4 + i ≠ 0 ∧ 4 + i ≠ 1 := by omega
    have h47 : 4 ≤ 4 + i ∧ 4 + i ≤ 7 := by omega
    rw [BitVec.getLsbD_extractLsb', decide_eq_true hi, Bool.true_and, readWord_status_getLsbD s (by omega),
      statusWordBits, if_neg h01.1, if_neg h01.2, if_pos h47, Nat.add_sub_cancel_left]

/-- The step of a STATUS read puts BUSY, DONE and ERR of this moment into the record (R45, R55). -/
theorem step_read_status {s : State} {rest : List Turn} (hp : s.params.wf = true)
    (h : s.turns = .host (.read (s.params.base + 0x200) 4) :: rest) :
    ∃ t v, step s = .next t ∧ t.trace.getLast? = some ⟨.read (s.params.base + 0x200) 4, ⟨some v, false⟩⟩ ∧
      v.getLsbD 0 = s.status.busy ∧ v.getLsbD 1 = s.status.done ∧ v.extractLsb' 4 4 = s.status.err :=
  ⟨_, _, step_read s rest 2 0 hp (by decide) (by decide) h, List.getLast?_concat, readWord_status_fields s⟩

/-- The accept of a CMD write by an idle block leaves a word in flight, with DONE and ERR cleared (R31). -/
theorem step_cmd_accepted {s : State} {rest : List Turn} {w : Word} (hp : s.params.wf = true)
    (hb : s.status.busy = false) (h : s.turns = .host (.write (s.params.base + 0x100) 4 w) :: rest) :
    ∃ a, step s = .next a ∧ a.params = s.params ∧ a.turns = rest ∧ a.status = ⟨true, false, s.status.dropped, 0⟩ ∧
      a.latch.op ≠ .empty :=
  ⟨_, cmdWriteIsAcceptedWhenIdle s rest w hp hb h, rfl, rfl, rfl, busyOp_ne_empty w⟩

/-- With a word in flight, legal or not, the engine's turn is a completion (R33, R104). -/
theorem step_engine_completes {s : State} {rest : List Turn} (hb : s.status.busy = true)
    (hop : s.latch.op ≠ .empty) (h : s.turns = .engine :: rest) :
    ∃ o, step s = .next ((s.setTurns rest).complete o) := by
  rcases engineStep_cases (s.setTurns rest) with ⟨-, -, o, ho, -⟩ | ⟨hidle | hempty, -⟩
  · exact ⟨o, (step_of_turns h).trans ho⟩
  · exact absurd hb (by simpa using hidle)
  · exact absurd hempty hop

/-- Settles O31: the read comes right after the accept, or right after the completion of what was accepted. -/
theorem statusReadAfterCmdIsOfThatCommand : Obligations.StatusReadAfterCmdIsOfThatCommand := by
  intro s rest w hp hb
  constructor
  · intro h
    obtain ⟨a, haccept, hparams, hturns, hstatus, -⟩ := step_cmd_accepted hp hb h
    rw [← hparams] at hp hturns ⊢
    obtain ⟨t, v, hread, htrace, hbusy, hdone, herr⟩ := step_read_status hp hturns
    rw [hstatus] at hbusy hdone herr
    exact ⟨t, v, (core_run_succ 1 haccept).trans (core_run_succ 0 hread), htrace, hbusy, hdone, herr⟩
  · intro h
    obtain ⟨a, haccept, hparams, hturns, hstatus, hop⟩ := step_cmd_accepted hp hb h
    obtain ⟨o, hengine⟩ := step_engine_completes (congrArg Status.busy hstatus) hop hturns
    rw [← hparams] at hp hengine ⊢
    obtain ⟨t, v, hread, htrace, hbusy, hdone, herr⟩ := step_read_status (rest := rest)
      (s := (a.setTurns (.host (.read (a.params.base + 0x200) 4) :: rest)).complete o) (by simpa using hp) (by simp)
    rw [complete_params, State.setTurns_params] at htrace
    rw [complete_busy] at hbusy
    rw [complete_done] at hdone
    exact ⟨t, _, v, (core_run_succ 2 haccept).trans ((core_run_succ 1 hengine).trans (core_run_succ 0 hread)),
      (core_run_succ 1 haccept).trans (core_run_succ 0 hengine), htrace, hbusy, hdone, herr⟩

/-! ## The quiescent block (R133) -/

/-- While BUSY = 0 the engine has nothing to complete (log entry 11). -/
theorem engineStep_idle {s : State} (hb : s.status.busy = false) : engineStep s = .next s := by
  simp [engineStep, hb]

/-- The script moves on its own turn, and on the default one of an idle block (R15, log entry 4). -/
theorem step_of_script_or_default {s : State} {rest : List Turn} (hb : s.status.busy = false)
    (h : s.turns = .script :: rest ∨ s.turns = [] ∧ rest = []) : step s = (s.setTurns rest).scriptStep := by
  rcases h with h | ⟨h, rfl⟩
  · exact step_of_turns h
  · have hsame : s.setTurns [] = s := by rw [← h]; rfl
    rw [hsame, step, runNextTurn, h]
    simp [defaultTurn, hb, runTurn]

/-- A statement without an access changes the host's script alone (R69). -/
theorem runStmt_hostOnly (s : State) {st : Stmt} (hst : IsHostOnly st) : ∃ sc, s.runStmt st = .next (s.setScript sc) := by
  cases st with
  | swImm | swTmp | lw => exact hst.elim
  | andi | addi | bnez | beqz => exact ⟨_, rfl⟩
  | stop => exact ⟨s.script, rfl⟩

/-- The script's turn at a statement without an access. -/
theorem scriptStep_of_hostOnly {s : State} {st : Stmt} (hat : s.script.prog[s.script.pc]? = some st)
    (hst : IsHostOnly st) : ∃ sc, s.scriptStep = .next (s.setScript sc) := by
  rw [State.scriptStep, hat]
  exact runStmt_hostOnly s hst

/-- The script's turn with no statement at pc (log entry 7). -/
theorem scriptStep_of_none {s : State} (hnone : s.script.prog[s.script.pc]? = none) : s.scriptStep = .next s := by
  rw [State.scriptStep, hnone]

/-- Settles O25: the engine's turn, then the script's with a statement at pc and with none. -/
theorem quiescentBlockIsStill : Obligations.QuiescentBlockIsStill := by
  intro s hb
  refine ⟨fun rest h => (step_of_turns h).trans (engineStep_idle (s := s.setTurns rest) hb), fun rest h => ?_⟩
  rw [step_of_script_or_default hb h]
  constructor
  · intro st hat hst
    obtain ⟨sc, hsc⟩ := scriptStep_of_hostOnly (s := s.setTurns rest) hat hst
    exact ⟨_, hsc, ⟨rfl, rfl, rfl, rfl, rfl, rfl⟩, rfl, rfl⟩
  · exact scriptStep_of_none (s := s.setTurns rest)

end Sys2Proof.Machine
